-- ==== Sys2Proof/Word.lean ====
section
/-! DEFINITION. The two word types of the machine (spec 00_scope.md R6: 8-bit registers and bytes, 16-bit addresses).
Every helper over them that a rule of the spec fixes (byte order, sign extension) stands in Decode.lean. -/

namespace Sys2Proof

/-- A byte: the width of A, X, Y, SP, P and of every bus access (R6, R71). -/
abbrev Byte := BitVec 8

/-- A 16-bit value: PC, CPU addresses, graphics addresses (R6, R44). -/
abbrev Word := BitVec 16

end Sys2Proof
end

