-- ==== Sys2Proof/Config.lean ====
section
/-! DEFINITION. What an implementation fixes: the parameters a model takes as arguments (spec 00_scope.md R7), and the
one free value of the model. -/

namespace Sys2Proof

/-- The parameters of R7, as plain data: `State` carries one `Params` that no operation writes, so a statement about
every state holds for every choice of them (log 1). RAM_INIT and VRAM_INIT are arguments of `State.powerOn`. -/
structure Params where
  /-- UNDOC_CYCLES as a finite list of exceptions: an undocumented opcode takes 2 plus its entry here, 2 when it has
  none (R126, D14). No list gives a count below 2, which U8 refuses (log 14). -/
  undocExtra : List (Byte × Nat)
  /-- NAMETABLE_SELECT as the list of addresses it maps to the other table than bit 10 says (R99, D19; log 15). -/
  nametableFlips : List Nat
  /-- TRAINER_MASK (R82, D26). -/
  trainerMask : Byte
  /-- VALIDATE_MAGIC (R92, D27). -/
  validateMagic : Bool
  /-- MAGIC, header bytes 0 to 3 (R92, D27). -/
  magic : Byte × Byte × Byte × Byte
  /-- INTERLEAVE: how many of the three timer ticks of a clock group come before its CPU tick (R446, D30). -/
  timerTicksBeforeCpu : Fin 4
  /-- FETCH_TICK_DECREMENTS (R143, D2). -/
  fetchTickDecrements : Bool
deriving DecidableEq, Repr

/-- The defaults R7 states. MAGIC has no default in the spec: the conventional value of R92 (93 G13) stands here and
is unused while VALIDATE_MAGIC is false (DESIGN CHOICE, log 1). -/
def Params.default : Params where
  undocExtra := []
  nametableFlips := []
  trainerMask := 0x08
  validateMagic := false
  magic := (0x4E, 0x45, 0x53, 0x1A)
  timerTicksBeforeCpu := 3
  fetchTickDecrements := true

/-- FREE VALUE (log 4): what the scratch field `temp` holds after an operation. R34 says that operations write it and no
rule says with what. Applied to `State.freeCount`, which every operation but NOP and the placeholder advances. -/
opaque Config.scratchTemp : Nat → Word

end Sys2Proof
end

