-- ==== Sys2Proof/Syntax.lean ====
section
/-! DEFINITION. The instructions as syntax: the twelve addressing modes (spec 30_encoding.md R121), an operand form per
mode, and `Instr`, one constructor per mnemonic of spec/opcode_table.json applied to that mnemonic's operand form. A row
of the table (one opcode byte) is one constructor at one form; each form type has exactly the modes the table gives. -/

namespace Sys2Proof

/-- The twelve mode tags of R121. -/
inductive Mode where
  | imp | imm | zp0 | zpx | zpy | rel | abs | abx | aby | ind | izx | izy
deriving DecidableEq, Repr

/-- A mode with the operand bytes it consumes (R121): a one-byte operand as a `Byte`, a two-byte operand as the `Word`
assembled low byte first (R122). -/
inductive Operand where
  | imp
  | imm (n : Byte)
  | zp0 (z : Byte)
  | zpx (z : Byte)
  | zpy (z : Byte)
  | rel (off : Byte)
  | abs (w : Word)
  | abx (w : Word)
  | aby (w : Word)
  | ind (w : Word)
  | izx (z : Byte)
  | izy (z : Byte)
deriving DecidableEq, Repr

/-- The eight forms of ADC, SBC, AND, ORA, EOR, CMP, LDA (R182-R186, R231, R330). -/
inductive AluForm where
  | imm (n : Byte) | zp0 (z : Byte) | zpx (z : Byte) | abs (w : Word) | abx (w : Word) | aby (w : Word)
  | izx (z : Byte) | izy (z : Byte)
deriving DecidableEq, Repr

/-- The seven forms of STA (R333). -/
inductive StaForm where
  | zp0 (z : Byte) | zpx (z : Byte) | abs (w : Word) | abx (w : Word) | aby (w : Word) | izx (z : Byte) | izy (z : Byte)
deriving DecidableEq, Repr

/-- The five forms of ASL, LSR, ROL, ROR (R220-R223); `acc` is mode IMP, the accumulator form. -/
inductive ShiftForm where
  | acc | zp0 (z : Byte) | zpx (z : Byte) | abs (w : Word) | abx (w : Word)
deriving DecidableEq, Repr

/-- The four forms of INC and DEC (R224, R225). -/
inductive IncForm where
  | zp0 (z : Byte) | zpx (z : Byte) | abs (w : Word) | abx (w : Word)
deriving DecidableEq, Repr

/-- The three forms of CPX and CPY (R232, R233). -/
inductive IndexCompareForm where
  | imm (n : Byte) | zp0 (z : Byte) | abs (w : Word)
deriving DecidableEq, Repr

/-- The two forms of BIT (R187). -/
inductive BitForm where
  | zp0 (z : Byte) | abs (w : Word)
deriving DecidableEq, Repr

/-- The five forms of LDX (R331). -/
inductive LdxForm where
  | imm (n : Byte) | zp0 (z : Byte) | zpy (z : Byte) | abs (w : Word) | aby (w : Word)
deriving DecidableEq, Repr

/-- The five forms of LDY (R332). -/
inductive LdyForm where
  | imm (n : Byte) | zp0 (z : Byte) | zpx (z : Byte) | abs (w : Word) | abx (w : Word)
deriving DecidableEq, Repr

/-- The three forms of STX (R334). -/
inductive StxForm where
  | zp0 (z : Byte) | zpy (z : Byte) | abs (w : Word)
deriving DecidableEq, Repr

/-- The three forms of STY (R335). -/
inductive StyForm where
  | zp0 (z : Byte) | zpx (z : Byte) | abs (w : Word)
deriving DecidableEq, Repr

/-- The two forms of JMP (R290). -/
inductive JmpForm where
  | abs (w : Word) | ind (w : Word)
deriving DecidableEq, Repr

/-- The mnemonics of the descriptor table (R124): 56 documented ones and the placeholder `???`, written `xxx` after its
operation identifier XXX (R126). -/
inductive Mnemonic where
  | adc | sbc | and | ora | eor | bit
  | asl | lsr | rol | ror | inc | dec | inx | iny | dex | dey | cmp | cpx | cpy
  | bcc | bcs | beq | bne | bmi | bpl | bvc | bvs | php | pha | pla | plp | jmp | jsr | rts | rti | brk
  | clc | sec | cli | sei | cld | sed | clv | tax | tay | txa | tya | tsx | txs
  | lda | ldx | ldy | sta | stx | sty | nop | xxx
deriving DecidableEq, Repr

/-- The instructions. A branch carries its offset byte, JSR its target, the placeholder its opcode byte. -/
inductive Instr where
  -- 41_arithmetic_logical.md
  | adc (f : AluForm) | sbc (f : AluForm) | and (f : AluForm) | ora (f : AluForm) | eor (f : AluForm) | bit (f : BitForm)
  -- 42_shift_incdec_compare.md
  | asl (f : ShiftForm) | lsr (f : ShiftForm) | rol (f : ShiftForm) | ror (f : ShiftForm)
  | inc (f : IncForm) | dec (f : IncForm) | inx | iny | dex | dey
  | cmp (f : AluForm) | cpx (f : IndexCompareForm) | cpy (f : IndexCompareForm)
  -- 43_branch_stack_control.md
  | bcc (off : Byte) | bcs (off : Byte) | beq (off : Byte) | bne (off : Byte)
  | bmi (off : Byte) | bpl (off : Byte) | bvc (off : Byte) | bvs (off : Byte)
  | php | pha | pla | plp | jmp (f : JmpForm) | jsr (target : Word) | rts | rti | brk
  -- 44_flags_transfer_loadstore.md
  | clc | sec | cli | sei | cld | sed | clv
  | tax | tay | txa | tya | tsx | txs
  | lda (f : AluForm) | ldx (f : LdxForm) | ldy (f : LdyForm)
  | sta (f : StaForm) | stx (f : StxForm) | sty (f : StyForm)
  | nop | xxx (opcode : Byte)
deriving DecidableEq, Repr

end Sys2Proof
end

