-- ==== Sys2Proof/WellFormed.lean ====
section
/-! DEFINITION. Which terms of `Instr` are instructions of the table. Every operand form type holds only the modes of
its mnemonic, so the one check left is that a placeholder carries an undocumented opcode (spec 30_encoding.md R126). -/

namespace Sys2Proof

/-- The low nibbles marked `·` in row `hi` of the opcode map of 30_encoding.md section 4. -/
def undocumentedLowNibbles (hi : Nat) : List Nat :=
  match hi with
  | 0x0 => [0x2, 0x3, 0x4, 0x7, 0xB, 0xC, 0xF]
  | 0x1 => [0x2, 0x3, 0x4, 0x7, 0xA, 0xB, 0xC, 0xF]
  | 0x2 => [0x2, 0x3, 0x7, 0xB, 0xF]
  | 0x3 => [0x2, 0x3, 0x4, 0x7, 0xA, 0xB, 0xC, 0xF]
  | 0x4 => [0x2, 0x3, 0x4, 0x7, 0xB, 0xF]
  | 0x5 => [0x2, 0x3, 0x4, 0x7, 0xA, 0xB, 0xC, 0xF]
  | 0x6 => [0x2, 0x3, 0x4, 0x7, 0xB, 0xF]
  | 0x7 => [0x2, 0x3, 0x4, 0x7, 0xA, 0xB, 0xC, 0xF]
  | 0x8 => [0x0, 0x2, 0x3, 0x7, 0x9, 0xB, 0xF]
  | 0x9 => [0x2, 0x3, 0x7, 0xB, 0xC, 0xE, 0xF]
  | 0xA => [0x3, 0x7, 0xB, 0xF]
  | 0xB => [0x2, 0x3, 0x7, 0xB, 0xF]
  | 0xC => [0x2, 0x3, 0x7, 0xB, 0xF]
  | 0xD => [0x2, 0x3, 0x4, 0x7, 0xA, 0xB, 0xC, 0xF]
  | 0xE => [0x2, 0x3, 0x7, 0xB, 0xF]
  | 0xF => [0x2, 0x3, 0x4, 0x7, 0xA, 0xB, 0xC, 0xF]
  | _ => []

/-- The opcode byte is one of the 105 that the documented table does not hold (R126). -/
def isUndocumented (opcode : Byte) : Bool :=
  (undocumentedLowNibbles (opcode.toNat / 16)).contains (opcode.toNat % 16)

/-- The term is an instruction of the table. -/
def Instr.wellFormed : Instr → Bool
  | .xxx opcode => isUndocumented opcode
  | _ => true

end Sys2Proof
end

