-- ==== Sys2Proof/Decode.lean ====
section
/-! DEFINITION. The opcode decoder: byte-order helpers, the 256-entry descriptor table of spec 30_encoding.md section 4,
the decoder over it, and an encoder written from the encoding lists of the instruction rules (R182 to R341), a second
transcription of the same table. -/

namespace Sys2Proof

/-! ## Byte order and extension (00_scope.md section 5) -/

/-- `hi(w)` = w[15:8]. -/
def hiByte (w : Word) : Byte := w.extractLsb' 8 8

/-- `lo(w)` = w[7:0]. -/
def loByte (w : Word) : Byte := w.extractLsb' 0 8

/-- `w16(lo, hi)` = (hi << 8) | lo. -/
def w16 (lo hi : Byte) : Word := hi ++ lo

/-- `zext_16`. -/
def zext16 (b : Byte) : Word := b.setWidth 16

/-- `sext_16`: bit 7 copied into bits 15:8. -/
def sext16 (b : Byte) : Word := b.signExtend 16

/-! ## The descriptor table (R124) -/

/-- A documented entry of the descriptor table: mnemonic, mode tag, base cycle count. The operation identifier of R37
is the mnemonic. -/
structure DescRow where
  mnemonic : Mnemonic
  mode : Mode
  cycles : Nat
deriving DecidableEq, Repr

/-- A documented cell of the map. -/
def row (mnemonic : Mnemonic) (mode : Mode) (cycles : Nat) : Option DescRow := some ⟨mnemonic, mode, cycles⟩

/-- A `·` cell of the map: an undocumented opcode. -/
def xx : Option DescRow := none

/-- Opcodes 0x00 to 0x0F. -/
def opcodeRow0 : List (Option DescRow) :=
  [row .brk .imp 7, row .ora .izx 6, xx, xx,
   xx, row .ora .zp0 3, row .asl .zp0 5, xx,
   row .php .imp 3, row .ora .imm 2, row .asl .imp 2, xx,
   xx, row .ora .abs 4, row .asl .abs 6, xx]

/-- Opcodes 0x10 to 0x1F. -/
def opcodeRow1 : List (Option DescRow) :=
  [row .bpl .rel 2, row .ora .izy 5, xx, xx,
   xx, row .ora .zpx 4, row .asl .zpx 6, xx,
   row .clc .imp 2, row .ora .aby 4, xx, xx,
   xx, row .ora .abx 4, row .asl .abx 7, xx]

/-- Opcodes 0x20 to 0x2F. -/
def opcodeRow2 : List (Option DescRow) :=
  [row .jsr .abs 6, row .and .izx 6, xx, xx,
   row .bit .zp0 3, row .and .zp0 3, row .rol .zp0 5, xx,
   row .plp .imp 4, row .and .imm 2, row .rol .imp 2, xx,
   row .bit .abs 4, row .and .abs 4, row .rol .abs 6, xx]

/-- Opcodes 0x30 to 0x3F. -/
def opcodeRow3 : List (Option DescRow) :=
  [row .bmi .rel 2, row .and .izy 5, xx, xx,
   xx, row .and .zpx 4, row .rol .zpx 6, xx,
   row .sec .imp 2, row .and .aby 4, xx, xx,
   xx, row .and .abx 4, row .rol .abx 7, xx]

/-- Opcodes 0x40 to 0x4F. -/
def opcodeRow4 : List (Option DescRow) :=
  [row .rti .imp 6, row .eor .izx 6, xx, xx,
   xx, row .eor .zp0 3, row .lsr .zp0 5, xx,
   row .pha .imp 3, row .eor .imm 2, row .lsr .imp 2, xx,
   row .jmp .abs 3, row .eor .abs 4, row .lsr .abs 6, xx]

/-- Opcodes 0x50 to 0x5F. -/
def opcodeRow5 : List (Option DescRow) :=
  [row .bvc .rel 2, row .eor .izy 5, xx, xx,
   xx, row .eor .zpx 4, row .lsr .zpx 6, xx,
   row .cli .imp 2, row .eor .aby 4, xx, xx,
   xx, row .eor .abx 4, row .lsr .abx 7, xx]

/-- Opcodes 0x60 to 0x6F. -/
def opcodeRow6 : List (Option DescRow) :=
  [row .rts .imp 6, row .adc .izx 6, xx, xx,
   xx, row .adc .zp0 3, row .ror .zp0 5, xx,
   row .pla .imp 4, row .adc .imm 2, row .ror .imp 2, xx,
   row .jmp .ind 5, row .adc .abs 4, row .ror .abs 6, xx]

/-- Opcodes 0x70 to 0x7F. -/
def opcodeRow7 : List (Option DescRow) :=
  [row .bvs .rel 2, row .adc .izy 5, xx, xx,
   xx, row .adc .zpx 4, row .ror .zpx 6, xx,
   row .sei .imp 2, row .adc .aby 4, xx, xx,
   xx, row .adc .abx 4, row .ror .abx 7, xx]

/-- Opcodes 0x80 to 0x8F. -/
def opcodeRow8 : List (Option DescRow) :=
  [xx, row .sta .izx 6, xx, xx,
   row .sty .zp0 3, row .sta .zp0 3, row .stx .zp0 3, xx,
   row .dey .imp 2, xx, row .txa .imp 2, xx,
   row .sty .abs 4, row .sta .abs 4, row .stx .abs 4, xx]

/-- Opcodes 0x90 to 0x9F. -/
def opcodeRow9 : List (Option DescRow) :=
  [row .bcc .rel 2, row .sta .izy 6, xx, xx,
   row .sty .zpx 4, row .sta .zpx 4, row .stx .zpy 4, xx,
   row .tya .imp 2, row .sta .aby 5, row .txs .imp 2, xx,
   xx, row .sta .abx 5, xx, xx]

/-- Opcodes 0xA0 to 0xAF. -/
def opcodeRowA : List (Option DescRow) :=
  [row .ldy .imm 2, row .lda .izx 6, row .ldx .imm 2, xx,
   row .ldy .zp0 3, row .lda .zp0 3, row .ldx .zp0 3, xx,
   row .tay .imp 2, row .lda .imm 2, row .tax .imp 2, xx,
   row .ldy .abs 4, row .lda .abs 4, row .ldx .abs 4, xx]

/-- Opcodes 0xB0 to 0xBF. -/
def opcodeRowB : List (Option DescRow) :=
  [row .bcs .rel 2, row .lda .izy 5, xx, xx,
   row .ldy .zpx 4, row .lda .zpx 4, row .ldx .zpy 4, xx,
   row .clv .imp 2, row .lda .aby 4, row .tsx .imp 2, xx,
   row .ldy .abx 4, row .lda .abx 4, row .ldx .aby 4, xx]

/-- Opcodes 0xC0 to 0xCF. -/
def opcodeRowC : List (Option DescRow) :=
  [row .cpy .imm 2, row .cmp .izx 6, xx, xx,
   row .cpy .zp0 3, row .cmp .zp0 3, row .dec .zp0 5, xx,
   row .iny .imp 2, row .cmp .imm 2, row .dex .imp 2, xx,
   row .cpy .abs 4, row .cmp .abs 4, row .dec .abs 6, xx]

/-- Opcodes 0xD0 to 0xDF. -/
def opcodeRowD : List (Option DescRow) :=
  [row .bne .rel 2, row .cmp .izy 5, xx, xx,
   xx, row .cmp .zpx 4, row .dec .zpx 6, xx,
   row .cld .imp 2, row .cmp .aby 4, xx, xx,
   xx, row .cmp .abx 4, row .dec .abx 7, xx]

/-- Opcodes 0xE0 to 0xEF. -/
def opcodeRowE : List (Option DescRow) :=
  [row .cpx .imm 2, row .sbc .izx 6, xx, xx,
   row .cpx .zp0 3, row .sbc .zp0 3, row .inc .zp0 5, xx,
   row .inx .imp 2, row .sbc .imm 2, row .nop .imp 2, xx,
   row .cpx .abs 4, row .sbc .abs 4, row .inc .abs 6, xx]

/-- Opcodes 0xF0 to 0xFF. -/
def opcodeRowF : List (Option DescRow) :=
  [row .beq .rel 2, row .sbc .izy 5, xx, xx,
   xx, row .sbc .zpx 4, row .inc .zpx 6, xx,
   row .sed .imp 2, row .sbc .aby 4, xx, xx,
   xx, row .sbc .abx 4, row .inc .abx 7, xx]

/-- The row of the map for a high nibble. -/
def opcodeRow (hi : Nat) : List (Option DescRow) :=
  match hi with
  | 0x0 => opcodeRow0
  | 0x1 => opcodeRow1
  | 0x2 => opcodeRow2
  | 0x3 => opcodeRow3
  | 0x4 => opcodeRow4
  | 0x5 => opcodeRow5
  | 0x6 => opcodeRow6
  | 0x7 => opcodeRow7
  | 0x8 => opcodeRow8
  | 0x9 => opcodeRow9
  | 0xA => opcodeRowA
  | 0xB => opcodeRowB
  | 0xC => opcodeRowC
  | 0xD => opcodeRowD
  | 0xE => opcodeRowE
  | 0xF => opcodeRowF
  | _ => []

/-- The documented entry of an opcode, none for the 105 undocumented ones. -/
def documentedRow (opcode : Byte) : Option DescRow :=
  (opcodeRow (opcode.toNat / 16)).getD (opcode.toNat % 16) none

/-- UNDOC_CYCLES(op), at least 2 by its form (R126, D14, U8). -/
def undocCycles (p : Params) (opcode : Byte) : Nat :=
  (p.undocExtra.lookup opcode).getD 0 + 2

/-- `DESC[opcode]` for every opcode (R124, R126). -/
def descriptor (p : Params) (opcode : Byte) : DescRow :=
  (documentedRow opcode).getD ⟨.xxx, .imp, undocCycles p opcode⟩

/-- `describe(opcode)` (R125): mnemonic, mode and base cycle count; a function of the opcode, so it changes nothing. -/
def describe (p : Params) (opcode : Byte) : Mnemonic × Mode × Nat :=
  let d := descriptor p opcode
  (d.mnemonic, d.mode, d.cycles)

/-- How many operand bytes a mode consumes (R121). -/
def Mode.operandBytes : Mode → Nat
  | .imp => 0
  | .imm | .zp0 | .zpx | .zpy | .rel | .izx | .izy => 1
  | .abs | .abx | .aby | .ind => 2

/-- The mode of an opcode; the placeholder is IMP (R126). -/
def opcodeMode (opcode : Byte) : Mode :=
  match documentedRow opcode with
  | some d => d.mode
  | none => .imp

/-- How many operand bytes follow an opcode (R121, R128). -/
def operandCount (opcode : Byte) : Nat := (opcodeMode opcode).operandBytes

/-! ## From a mode and operand bytes to an operand form (R122, R123) -/

def aluForm (m : Mode) (b1 b2 : Byte) : Option AluForm :=
  match m with
  | .imm => some (.imm b1)
  | .zp0 => some (.zp0 b1)
  | .zpx => some (.zpx b1)
  | .abs => some (.abs (w16 b1 b2))
  | .abx => some (.abx (w16 b1 b2))
  | .aby => some (.aby (w16 b1 b2))
  | .izx => some (.izx b1)
  | .izy => some (.izy b1)
  | _ => none

def staForm (m : Mode) (b1 b2 : Byte) : Option StaForm :=
  match m with
  | .zp0 => some (.zp0 b1)
  | .zpx => some (.zpx b1)
  | .abs => some (.abs (w16 b1 b2))
  | .abx => some (.abx (w16 b1 b2))
  | .aby => some (.aby (w16 b1 b2))
  | .izx => some (.izx b1)
  | .izy => some (.izy b1)
  | _ => none

def shiftForm (m : Mode) (b1 b2 : Byte) : Option ShiftForm :=
  match m with
  | .imp => some .acc
  | .zp0 => some (.zp0 b1)
  | .zpx => some (.zpx b1)
  | .abs => some (.abs (w16 b1 b2))
  | .abx => some (.abx (w16 b1 b2))
  | _ => none

def incForm (m : Mode) (b1 b2 : Byte) : Option IncForm :=
  match m with
  | .zp0 => some (.zp0 b1)
  | .zpx => some (.zpx b1)
  | .abs => some (.abs (w16 b1 b2))
  | .abx => some (.abx (w16 b1 b2))
  | _ => none

def indexCompareForm (m : Mode) (b1 b2 : Byte) : Option IndexCompareForm :=
  match m with
  | .imm => some (.imm b1)
  | .zp0 => some (.zp0 b1)
  | .abs => some (.abs (w16 b1 b2))
  | _ => none

def bitForm (m : Mode) (b1 b2 : Byte) : Option BitForm :=
  match m with
  | .zp0 => some (.zp0 b1)
  | .abs => some (.abs (w16 b1 b2))
  | _ => none

def ldxForm (m : Mode) (b1 b2 : Byte) : Option LdxForm :=
  match m with
  | .imm => some (.imm b1)
  | .zp0 => some (.zp0 b1)
  | .zpy => some (.zpy b1)
  | .abs => some (.abs (w16 b1 b2))
  | .aby => some (.aby (w16 b1 b2))
  | _ => none

def ldyForm (m : Mode) (b1 b2 : Byte) : Option LdyForm :=
  match m with
  | .imm => some (.imm b1)
  | .zp0 => some (.zp0 b1)
  | .zpx => some (.zpx b1)
  | .abs => some (.abs (w16 b1 b2))
  | .abx => some (.abx (w16 b1 b2))
  | _ => none

def stxForm (m : Mode) (b1 b2 : Byte) : Option StxForm :=
  match m with
  | .zp0 => some (.zp0 b1)
  | .zpy => some (.zpy b1)
  | .abs => some (.abs (w16 b1 b2))
  | _ => none

def styForm (m : Mode) (b1 b2 : Byte) : Option StyForm :=
  match m with
  | .zp0 => some (.zp0 b1)
  | .zpx => some (.zpx b1)
  | .abs => some (.abs (w16 b1 b2))
  | _ => none

def jmpForm (m : Mode) (b1 b2 : Byte) : Option JmpForm :=
  match m with
  | .abs => some (.abs (w16 b1 b2))
  | .ind => some (.ind (w16 b1 b2))
  | _ => none

/-- An instruction without an operand: mode IMP. -/
def impForm (m : Mode) (i : Instr) : Option Instr := if m = .imp then some i else none

/-- A branch: mode REL. -/
def relForm (m : Mode) (i : Instr) : Option Instr := if m = .rel then some i else none

/-- The instruction of a mnemonic in a mode with its operand bytes; none for a pair the table does not hold. -/
def instrOf (n : Mnemonic) (m : Mode) (b1 b2 : Byte) : Option Instr :=
  match n with
  | .adc => (aluForm m b1 b2).map .adc
  | .sbc => (aluForm m b1 b2).map .sbc
  | .and => (aluForm m b1 b2).map .and
  | .ora => (aluForm m b1 b2).map .ora
  | .eor => (aluForm m b1 b2).map .eor
  | .bit => (bitForm m b1 b2).map .bit
  | .asl => (shiftForm m b1 b2).map .asl
  | .lsr => (shiftForm m b1 b2).map .lsr
  | .rol => (shiftForm m b1 b2).map .rol
  | .ror => (shiftForm m b1 b2).map .ror
  | .inc => (incForm m b1 b2).map .inc
  | .dec => (incForm m b1 b2).map .dec
  | .inx => impForm m .inx
  | .iny => impForm m .iny
  | .dex => impForm m .dex
  | .dey => impForm m .dey
  | .cmp => (aluForm m b1 b2).map .cmp
  | .cpx => (indexCompareForm m b1 b2).map .cpx
  | .cpy => (indexCompareForm m b1 b2).map .cpy
  | .bcc => relForm m (.bcc b1)
  | .bcs => relForm m (.bcs b1)
  | .beq => relForm m (.beq b1)
  | .bne => relForm m (.bne b1)
  | .bmi => relForm m (.bmi b1)
  | .bpl => relForm m (.bpl b1)
  | .bvc => relForm m (.bvc b1)
  | .bvs => relForm m (.bvs b1)
  | .php => impForm m .php
  | .pha => impForm m .pha
  | .pla => impForm m .pla
  | .plp => impForm m .plp
  | .jmp => (jmpForm m b1 b2).map .jmp
  | .jsr => if m = .abs then some (.jsr (w16 b1 b2)) else none
  | .rts => impForm m .rts
  | .rti => impForm m .rti
  | .brk => impForm m .brk
  | .clc => impForm m .clc
  | .sec => impForm m .sec
  | .cli => impForm m .cli
  | .sei => impForm m .sei
  | .cld => impForm m .cld
  | .sed => impForm m .sed
  | .clv => impForm m .clv
  | .tax => impForm m .tax
  | .tay => impForm m .tay
  | .txa => impForm m .txa
  | .tya => impForm m .tya
  | .tsx => impForm m .tsx
  | .txs => impForm m .txs
  | .lda => (aluForm m b1 b2).map .lda
  | .ldx => (ldxForm m b1 b2).map .ldx
  | .ldy => (ldyForm m b1 b2).map .ldy
  | .sta => (staForm m b1 b2).map .sta
  | .stx => (stxForm m b1 b2).map .stx
  | .sty => (styForm m b1 b2).map .sty
  | .nop => impForm m .nop
  | .xxx => none

/-- The instruction of an opcode byte and the two bytes after it, of which it uses as many as its mode consumes. Total:
every opcode byte decodes (R124, R127), an undocumented one to the placeholder (R126). -/
def assemble (opcode b1 b2 : Byte) : Instr :=
  match documentedRow opcode with
  | some d => (instrOf d.mnemonic d.mode b1 b2).getD (.xxx opcode)
  | none => .xxx opcode

/-! ## The decoder over a list of bytes -/

/-- Why a list of bytes holds no whole instruction. No opcode is refused (R127). -/
inductive DecodeError where
  /-- The list is empty. -/
  | noOpcode
  /-- The list ends before the operand bytes of this opcode. -/
  | operandMissing (opcode : Byte)
deriving DecidableEq, Repr

/-- The first instruction of a list of bytes and the bytes after it. -/
def decode (bytes : List Byte) : Except DecodeError (Instr × List Byte) :=
  match bytes with
  | [] => .error .noOpcode
  | opcode :: rest =>
    match operandCount opcode, rest with
    | 0, rest => .ok (assemble opcode 0 0, rest)
    | 1, b1 :: rest => .ok (assemble opcode b1 0, rest)
    | 2, b1 :: b2 :: rest => .ok (assemble opcode b1 b2, rest)
    | _, _ => .error (.operandMissing opcode)

/-- The instruction whose bits are `w`, numbered as spec/opcode_table.json numbers them (bit 0 is the least significant
bit of the first byte), its bits above `nbits` 0. Three bytes are the longest instruction. -/
def tableBytes (nbits w : Nat) : List Byte :=
  let u := w % 2 ^ nbits
  [BitVec.ofNat 8 u, BitVec.ofNat 8 (u / 256), BitVec.ofNat 8 (u / 65536)]

/-- What the decoder reads from a table word. -/
def decodeTableWord (nbits w : Nat) : Option Instr :=
  match decode (tableBytes nbits w) with
  | .ok (i, _) => some i
  | .error _ => none

/-! ## The mnemonic and the operand of an instruction -/

def Instr.mnemonic : Instr → Mnemonic
  | .adc _ => .adc | .sbc _ => .sbc | .and _ => .and | .ora _ => .ora | .eor _ => .eor | .bit _ => .bit
  | .asl _ => .asl | .lsr _ => .lsr | .rol _ => .rol | .ror _ => .ror | .inc _ => .inc | .dec _ => .dec
  | .inx => .inx | .iny => .iny | .dex => .dex | .dey => .dey
  | .cmp _ => .cmp | .cpx _ => .cpx | .cpy _ => .cpy
  | .bcc _ => .bcc | .bcs _ => .bcs | .beq _ => .beq | .bne _ => .bne
  | .bmi _ => .bmi | .bpl _ => .bpl | .bvc _ => .bvc | .bvs _ => .bvs
  | .php => .php | .pha => .pha | .pla => .pla | .plp => .plp
  | .jmp _ => .jmp | .jsr _ => .jsr | .rts => .rts | .rti => .rti | .brk => .brk
  | .clc => .clc | .sec => .sec | .cli => .cli | .sei => .sei | .cld => .cld | .sed => .sed | .clv => .clv
  | .tax => .tax | .tay => .tay | .txa => .txa | .tya => .tya | .tsx => .tsx | .txs => .txs
  | .lda _ => .lda | .ldx _ => .ldx | .ldy _ => .ldy | .sta _ => .sta | .stx _ => .stx | .sty _ => .sty
  | .nop => .nop | .xxx _ => .xxx

def AluForm.operand : AluForm → Operand
  | .imm n => .imm n | .zp0 z => .zp0 z | .zpx z => .zpx z | .abs w => .abs w | .abx w => .abx w | .aby w => .aby w
  | .izx z => .izx z | .izy z => .izy z

def StaForm.operand : StaForm → Operand
  | .zp0 z => .zp0 z | .zpx z => .zpx z | .abs w => .abs w | .abx w => .abx w | .aby w => .aby w
  | .izx z => .izx z | .izy z => .izy z

def ShiftForm.operand : ShiftForm → Operand
  | .acc => .imp | .zp0 z => .zp0 z | .zpx z => .zpx z | .abs w => .abs w | .abx w => .abx w

def IncForm.operand : IncForm → Operand
  | .zp0 z => .zp0 z | .zpx z => .zpx z | .abs w => .abs w | .abx w => .abx w

def IndexCompareForm.operand : IndexCompareForm → Operand
  | .imm n => .imm n | .zp0 z => .zp0 z | .abs w => .abs w

def BitForm.operand : BitForm → Operand
  | .zp0 z => .zp0 z | .abs w => .abs w

def LdxForm.operand : LdxForm → Operand
  | .imm n => .imm n | .zp0 z => .zp0 z | .zpy z => .zpy z | .abs w => .abs w | .aby w => .aby w

def LdyForm.operand : LdyForm → Operand
  | .imm n => .imm n | .zp0 z => .zp0 z | .zpx z => .zpx z | .abs w => .abs w | .abx w => .abx w

def StxForm.operand : StxForm → Operand
  | .zp0 z => .zp0 z | .zpy z => .zpy z | .abs w => .abs w

def StyForm.operand : StyForm → Operand
  | .zp0 z => .zp0 z | .zpx z => .zpx z | .abs w => .abs w

def JmpForm.operand : JmpForm → Operand
  | .abs w => .abs w | .ind w => .ind w

/-- The mode and operand bytes of an instruction (R121). -/
def Instr.operand : Instr → Operand
  | .adc f | .sbc f | .and f | .ora f | .eor f | .cmp f | .lda f => f.operand
  | .bit f => f.operand
  | .asl f | .lsr f | .rol f | .ror f => f.operand
  | .inc f | .dec f => f.operand
  | .cpx f | .cpy f => f.operand
  | .bcc off | .bcs off | .beq off | .bne off | .bmi off | .bpl off | .bvc off | .bvs off => .rel off
  | .jmp f => f.operand
  | .jsr w => .abs w
  | .ldx f => f.operand
  | .ldy f => f.operand
  | .sta f => f.operand
  | .stx f => f.operand
  | .sty f => f.operand
  | .inx | .iny | .dex | .dey | .php | .pha | .pla | .plp | .rts | .rti | .brk
  | .clc | .sec | .cli | .sei | .cld | .sed | .clv | .tax | .tay | .txa | .tya | .tsx | .txs | .nop | .xxx _ => .imp

/-- The operand bytes in memory order, low byte first (R122). -/
def Operand.bytes : Operand → List Byte
  | .imp => []
  | .imm b | .zp0 b | .zpx b | .zpy b | .rel b | .izx b | .izy b => [b]
  | .abs w | .abx w | .aby w | .ind w => [loByte w, hiByte w]

/-- The mode tag of an operand. -/
def Operand.mode : Operand → Mode
  | .imp => .imp | .imm _ => .imm | .zp0 _ => .zp0 | .zpx _ => .zpx | .zpy _ => .zpy | .rel _ => .rel
  | .abs _ => .abs | .abx _ => .abx | .aby _ => .aby | .ind _ => .ind | .izx _ => .izx | .izy _ => .izy

/-! ## The encoder, from the "Encodings" lists of the instruction rules -/

/-- Opcodes in the order IMM ZP0 ZPX ABS ABX ABY IZX IZY. -/
def AluForm.opcode (imm zp0 zpx abs abx aby izx izy : Byte) : AluForm → Byte
  | .imm _ => imm | .zp0 _ => zp0 | .zpx _ => zpx | .abs _ => abs | .abx _ => abx | .aby _ => aby
  | .izx _ => izx | .izy _ => izy

/-- Opcodes in the order IMP ZP0 ZPX ABS ABX. -/
def ShiftForm.opcode (acc zp0 zpx abs abx : Byte) : ShiftForm → Byte
  | .acc => acc | .zp0 _ => zp0 | .zpx _ => zpx | .abs _ => abs | .abx _ => abx

/-- Opcodes in the order ZP0 ZPX ABS ABX. -/
def IncForm.opcode (zp0 zpx abs abx : Byte) : IncForm → Byte
  | .zp0 _ => zp0 | .zpx _ => zpx | .abs _ => abs | .abx _ => abx

/-- Opcodes in the order IMM ZP0 ABS. -/
def IndexCompareForm.opcode (imm zp0 abs : Byte) : IndexCompareForm → Byte
  | .imm _ => imm | .zp0 _ => zp0 | .abs _ => abs

/-- The opcode byte of an instruction. -/
def opcodeOf : Instr → Byte
  | .adc f => f.opcode 0x69 0x65 0x75 0x6D 0x7D 0x79 0x61 0x71
  | .sbc f => f.opcode 0xE9 0xE5 0xF5 0xED 0xFD 0xF9 0xE1 0xF1
  | .and f => f.opcode 0x29 0x25 0x35 0x2D 0x3D 0x39 0x21 0x31
  | .ora f => f.opcode 0x09 0x05 0x15 0x0D 0x1D 0x19 0x01 0x11
  | .eor f => f.opcode 0x49 0x45 0x55 0x4D 0x5D 0x59 0x41 0x51
  | .bit (.zp0 _) => 0x24
  | .bit (.abs _) => 0x2C
  | .asl f => f.opcode 0x0A 0x06 0x16 0x0E 0x1E
  | .lsr f => f.opcode 0x4A 0x46 0x56 0x4E 0x5E
  | .rol f => f.opcode 0x2A 0x26 0x36 0x2E 0x3E
  | .ror f => f.opcode 0x6A 0x66 0x76 0x6E 0x7E
  | .inc f => f.opcode 0xE6 0xF6 0xEE 0xFE
  | .dec f => f.opcode 0xC6 0xD6 0xCE 0xDE
  | .inx => 0xE8
  | .iny => 0xC8
  | .dex => 0xCA
  | .dey => 0x88
  | .cmp f => f.opcode 0xC9 0xC5 0xD5 0xCD 0xDD 0xD9 0xC1 0xD1
  | .cpx f => f.opcode 0xE0 0xE4 0xEC
  | .cpy f => f.opcode 0xC0 0xC4 0xCC
  | .bcc _ => 0x90
  | .bcs _ => 0xB0
  | .beq _ => 0xF0
  | .bne _ => 0xD0
  | .bmi _ => 0x30
  | .bpl _ => 0x10
  | .bvc _ => 0x50
  | .bvs _ => 0x70
  | .php => 0x08
  | .pha => 0x48
  | .pla => 0x68
  | .plp => 0x28
  | .jmp (.abs _) => 0x4C
  | .jmp (.ind _) => 0x6C
  | .jsr _ => 0x20
  | .rts => 0x60
  | .rti => 0x40
  | .brk => 0x00
  | .clc => 0x18
  | .sec => 0x38
  | .cli => 0x58
  | .sei => 0x78
  | .cld => 0xD8
  | .sed => 0xF8
  | .clv => 0xB8
  | .tax => 0xAA
  | .tay => 0xA8
  | .txa => 0x8A
  | .tya => 0x98
  | .tsx => 0xBA
  | .txs => 0x9A
  | .lda f => f.opcode 0xA9 0xA5 0xB5 0xAD 0xBD 0xB9 0xA1 0xB1
  | .ldx (.imm _) => 0xA2
  | .ldx (.zp0 _) => 0xA6
  | .ldx (.zpy _) => 0xB6
  | .ldx (.abs _) => 0xAE
  | .ldx (.aby _) => 0xBE
  | .ldy (.imm _) => 0xA0
  | .ldy (.zp0 _) => 0xA4
  | .ldy (.zpx _) => 0xB4
  | .ldy (.abs _) => 0xAC
  | .ldy (.abx _) => 0xBC
  | .sta (.zp0 _) => 0x85
  | .sta (.zpx _) => 0x95
  | .sta (.abs _) => 0x8D
  | .sta (.abx _) => 0x9D
  | .sta (.aby _) => 0x99
  | .sta (.izx _) => 0x81
  | .sta (.izy _) => 0x91
  | .stx (.zp0 _) => 0x86
  | .stx (.zpy _) => 0x96
  | .stx (.abs _) => 0x8E
  | .sty (.zp0 _) => 0x84
  | .sty (.zpx _) => 0x94
  | .sty (.abs _) => 0x8C
  | .nop => 0xEA
  | .xxx opcode => opcode

/-- The bytes of an instruction: its opcode, then its operand bytes (R120). -/
def encode (i : Instr) : List Byte := opcodeOf i :: i.operand.bytes

/-- The base cycle count of an instruction: its descriptor's (R141, R490). -/
def baseCycles (p : Params) (i : Instr) : Nat := (descriptor p (opcodeOf i)).cycles

end Sys2Proof
end

