-- ==== Sys2Proof/Machine/State.lean ====
section
/-! DEFINITION. The state of the five sub-blocks of spec 00_scope.md R1, as plain data, one structure per sub-block
(10_state.md), the reasons a step or a host call can stop, and the machine after reset. -/

namespace Sys2Proof.Machine

/-- The flags of P (10_state.md R25). -/
inductive Flag where
  | c | z | i | d | b | u | v | n
deriving DecidableEq, Repr

/-- A byte array: the listed bytes, addresses strictly rising, no listed byte equal to `unlistedByte`. -/
abbrev Memory := List Host.Cell

/-- What an unlisted address reads as: the spec's default of RAM_INIT and VRAM_INIT (70 R474, R475), and what graphics
RAM holds at load (20 R84). DESIGN CHOICE, log 10. -/
def unlistedByte : Byte := 0x00

/-- The canonical form of a memory: equal memories are equal lists. -/
abbrev Memory.wf (m : Memory) : Prop := m.Pairwise (fun c d => c.1 < d.1) ∧ ∀ c ∈ m, c.2 ≠ unlistedByte

/-- Every listed address is below `size`. -/
abbrev Memory.below (m : Memory) (size : Nat) : Prop := ∀ c ∈ m, c.1 < size

/-- `6502_cpu_core`: the registers, the scratch fields of R34 and the two cycle counters. -/
structure Cpu where
  /-- A (R20) -/
  a : Byte
  /-- X (R21) -/
  x : Byte
  /-- Y (R22) -/
  y : Byte
  /-- SP (R23) -/
  sp : Byte
  /-- PC (R24) -/
  pc : Word
  /-- P, packed N V U B D I Z C from bit 7 (R25) -/
  p : Byte
  /-- scratch: the opcode of the last fetch (R34) -/
  opcode : Byte
  /-- scratch: the last operand read (R34, R145) -/
  fetched : Byte
  /-- scratch: R34's `temp`, a free value after every instruction but NOP and the placeholder (log 4) -/
  temp : Word
  /-- scratch: the effective address (R34) -/
  addrAbs : Word
  /-- scratch: the sign-extended branch offset (R34) -/
  addrRel : Word
  /-- ticks left before the next fetch (R35) -/
  remaining : Nat
  /-- CPU ticks so far (R36) -/
  totalCycles : Nat
deriving DecidableEq, Repr

/-- `rom_mapper`: a loaded cartridge (R39). `chr_is_ram` is `Cartridge.chrIsRam`, computed from `chrBanks`. -/
structure Cartridge where
  /-- header byte 4 (R80) -/
  prgBanks : Byte
  /-- header byte 5 (R80) -/
  chrBanks : Byte
  /-- R81; 0 for every cartridge a load accepts (R85) -/
  mapperId : Byte
  /-- the program ROM, 16384 × prgBanks bytes (R83) -/
  prg : Memory
  /-- the graphics ROM, 8192 × chrBanks bytes, or 8192 bytes of graphics RAM (R83, R84) -/
  chr : Memory
deriving DecidableEq, Repr

/-- `graphics_register_file` (R40-R48). -/
structure Gfx where
  /-- CONTROL (R40) -/
  ctrl : Byte
  /-- MASK (R41) -/
  mask : Byte
  /-- STATUS, bit 7 is VB (R42) -/
  status : Byte
  /-- the PPU-ADDRESS toggle: true is 1, the next write supplies the low byte (R43) -/
  latch : Bool
  /-- the internal VRAM address (R44) -/
  v : Word
  /-- the delayed-read buffer (R45) -/
  buffer : Byte
  /-- the two 1 KiB name tables, byte o of table t at key 1024 t + o (R46) -/
  nametable : Memory
  /-- the 32-byte palette (R47) -/
  palette : Memory
  /-- the two 4 KiB pattern tables, byte o of table t at key 4096 t + o (R48) -/
  pattern : Memory
deriving DecidableEq, Repr

/-- `graphics_timer` (R49-R51). -/
structure Timer where
  scanline : Int
  cycle : Nat
  frameComplete : Bool
deriving DecidableEq, Repr

/-- The machine. `params`, `wasReset` and `freeCount` are the model's own fields (log 1, 11, 4). -/
structure State where
  cpu : Cpu
  /-- `ram[0..2047]` (R38) -/
  ram : Memory
  /-- the cartridge, none before the first load (R93, log 2) -/
  cart : Option Cartridge
  gfx : Gfx
  timer : Timer
  /-- the parameters of 00_scope.md R7 -/
  params : Params
  /-- whether `reset()` has happened since power-on (70 R478) -/
  wasReset : Bool
  /-- how many free values have been taken (log 4) -/
  freeCount : Nat
deriving DecidableEq, Repr

/-- Why the machine stops with an error. Only the host call `loadCartridge` raises one ("fatal", 20_memory.md R83-R92);
no instruction and no tick does (60 R400). All are the spec's own, hence safe. -/
inductive Fault where
  /-- R83: the image length is not what its header gives. Raised by `loadCartridge`. Safe. -/
  | lengthMismatch
  /-- R86: no program bank. Raised by `loadCartridge`. Safe. -/
  | noProgramBank
  /-- R85: the mapper identifier is not 0. Raised by `loadCartridge`. Safe. -/
  | unsupportedMapper
  /-- R92: the signature differs from MAGIC while VALIDATE_MAGIC holds. Raised by `loadCartridge`. Safe. -/
  | badMagic
deriving DecidableEq, Repr

/-- Why the model gives a situation no meaning. -/
inductive Refusal where
  /-- An instruction without a meaning yet. Raised by no arm: every instruction has its meaning. -/
  | notModelled (mnemonic : String)
  /-- 70 R478, U16: a CPU tick before the first `reset()`. Raised by `cpuTick` and what runs it. Safe. -/
  | tickBeforeReset
  /-- 60 R403, U15: `irq()` or `nmi()` while `remaining > 0`. Raised by `irq` and `nmi`. Safe. -/
  | interruptMidInstruction
deriving DecidableEq, Repr

/-- How a step, an instruction or a host call ends. -/
abbrev Result := Host.Outcome State Fault Refusal

/-- VRAM_INIT (00 R7, 70 R475): the power-on contents of the graphics memories. -/
structure VramInit where
  nametable : Memory
  palette : Memory
  pattern : Memory
deriving DecidableEq, Repr

/-- Power-on (70 R470, R474-R476) with parameters `p`, RAM_INIT and VRAM_INIT, and no cartridge. -/
def State.powerOn (p : Params) (ramInit : Memory) (vram : VramInit) : State where
  cpu := { a := 0, x := 0, y := 0, sp := 0, pc := 0, p := 0, opcode := 0, fetched := 0, temp := 0, addrAbs := 0,
           addrRel := 0, remaining := 0, totalCycles := 0 }
  ram := ramInit
  cart := none
  gfx := { ctrl := 0, mask := 0, status := 0, latch := false, v := 0, buffer := 0, nametable := vram.nametable,
           palette := vram.palette, pattern := vram.pattern }
  timer := { scanline := 0, cycle := 0, frameComplete := false }
  params := p
  wasReset := false
  freeCount := 0

/-- The machine right after reset: power-on with the default parameters and contents and no cartridge, then `reset()`,
whose vector reads find the open bus: PC = 0x0000, P = 0x00, SP = 0xFD (70 R471-R473, R478; log 2). The scratch fields
and `freeCount` are 0 (DESIGN CHOICE, log 5 and 4). -/
def State.reset : State where
  cpu := { a := 0, x := 0, y := 0, sp := 0xFD, pc := 0x0000, p := 0x00, opcode := 0, fetched := 0, temp := 0,
           addrAbs := 0, addrRel := 0, remaining := 0, totalCycles := 0 }
  ram := []
  cart := none
  gfx := { ctrl := 0, mask := 0, status := 0, latch := false, v := 0, buffer := 0, nametable := [], palette := [],
           pattern := [] }
  timer := { scanline := 0, cycle := 0, frameComplete := false }
  params := Params.default
  wasReset := true
  freeCount := 0

/-! ## One update per register: every write of the model goes through these -/

def State.setA (s : State) (v : Byte) : State := { s with cpu := { s.cpu with a := v } }
def State.setX (s : State) (v : Byte) : State := { s with cpu := { s.cpu with x := v } }
def State.setY (s : State) (v : Byte) : State := { s with cpu := { s.cpu with y := v } }
def State.setSP (s : State) (v : Byte) : State := { s with cpu := { s.cpu with sp := v } }
def State.setPC (s : State) (v : Word) : State := { s with cpu := { s.cpu with pc := v } }
def State.setP (s : State) (v : Byte) : State := { s with cpu := { s.cpu with p := v } }
def State.setOpcode (s : State) (v : Byte) : State := { s with cpu := { s.cpu with opcode := v } }
def State.setFetched (s : State) (v : Byte) : State := { s with cpu := { s.cpu with fetched := v } }
def State.setTemp (s : State) (v : Word) : State := { s with cpu := { s.cpu with temp := v } }
def State.setAddrAbs (s : State) (v : Word) : State := { s with cpu := { s.cpu with addrAbs := v } }
def State.setAddrRel (s : State) (v : Word) : State := { s with cpu := { s.cpu with addrRel := v } }
def State.setRemaining (s : State) (v : Nat) : State := { s with cpu := { s.cpu with remaining := v } }
def State.setTotalCycles (s : State) (v : Nat) : State := { s with cpu := { s.cpu with totalCycles := v } }
def State.setRam (s : State) (v : Memory) : State := { s with ram := v }
def State.setCart (s : State) (v : Option Cartridge) : State := { s with cart := v }
def State.setGfx (s : State) (v : Gfx) : State := { s with gfx := v }
def State.setTimer (s : State) (v : Timer) : State := { s with timer := v }
def State.setWasReset (s : State) (v : Bool) : State := { s with wasReset := v }
def State.setFreeCount (s : State) (v : Nat) : State := { s with freeCount := v }

end Sys2Proof.Machine
end

