-- ==== Sys2Proof/Machine/Flags.lean ====
section
/-! DEFINITION. The status register's flags (spec 10_state.md R25) and every flag computation the spec gives
(41 R180-R183, 42 R230). -/

namespace Sys2Proof.Machine

/-- Bit `k` of `b` set to `v`, the other bits as they were. -/
def setBit (b : Byte) (k : Nat) (v : Bool) : Byte :=
  if v then b ||| (1#8 <<< k) else b &&& ~~~(1#8 <<< k)

/-- The bit of P that holds a flag (R25). -/
def Flag.bit : Flag → Nat
  | .c => 0 | .z => 1 | .i => 2 | .d => 3 | .b => 4 | .u => 5 | .v => 6 | .n => 7

/-- A flag of a status byte. -/
def getFlag (p : Byte) (f : Flag) : Bool := p.getLsbD f.bit

/-- A status byte with one flag written. -/
def setFlag (p : Byte) (f : Flag) (v : Bool) : Byte := setBit p f.bit v

/-- A flag of the live P. -/
def State.flag (s : State) (f : Flag) : Bool := getFlag s.cpu.p f

/-- Write one flag of the live P. -/
def State.setFlag (s : State) (f : Flag) (v : Bool) : State := s.setP (Machine.setFlag s.cpu.p f v)

/-- `SetZN(v)` on a status byte (R180). -/
def znFlags (p : Byte) (v : Byte) : Byte := setFlag (setFlag p .z (v == 0)) .n (v.getLsbD 7)

/-- `SetZN(v)` (R180). -/
def setZN (v : Byte) (s : State) : State := s.setP (znFlags s.cpu.p v)

/-- `Overflow(a, m, r)` (R181). -/
def overflow (a m r : Byte) : Bool := (~~~(a ^^^ m) &&& (a ^^^ r)).getLsbD 7

/-- The 9-bit sum of ADC: 0 to 511 (R182). -/
def addSum (a m : Byte) (c : Bool) : Nat := a.toNat + m.toNat + c.toNat

/-- The 8-bit result of ADC (R182). -/
def addResult (a m : Byte) (c : Bool) : Byte := BitVec.ofNat 8 (addSum a m c)

/-- The status byte after ADC: C, V, Z and N written (R182). -/
def addFlags (p a m : Byte) (c : Bool) : Byte :=
  let r := addResult a m c
  znFlags (setFlag (setFlag p .c (decide (0xFF < addSum a m c))) .v (overflow a m r)) r

/-- The status byte after `Compare(reg, m)`: C, Z and N written (R230). -/
def compareFlags (p reg m : Byte) : Byte :=
  znFlags (setFlag p .c (decide (m.toNat ≤ reg.toNat))) (reg - m)

/-- The status byte after BIT: Z, N and V written (R187). -/
def bitFlags (p a m : Byte) : Byte :=
  setFlag (setFlag (setFlag p .z ((a &&& m) == 0)) .n (m.getLsbD 7)) .v (m.getLsbD 6)

/-- The status byte PHP and BRK push: B = 1 and U = 1 (R272, R294). -/
def softwareStatus (p : Byte) : Byte := p ||| 0x30

/-- The status byte `irq` and `nmi` leave live and push: B = 0 and U = 1 (R410). -/
def interruptStatus (p : Byte) : Byte := setFlag (setFlag p .b false) .u true

/-- The status byte RTI leaves: B = 0 and U = 0 (R293). -/
def returnedStatus (p : Byte) : Byte := setFlag (setFlag p .b false) .u false

end Sys2Proof.Machine
end

