-- ==== Sys2Proof/Machine/Ops.lean ====
section
/-! DEFINITION. The named operations over memory and registers: byte arrays, the NROM mapper (spec 20_memory.md
section 6), the graphics address space (20 section 7), the graphics ports (60 section 6), the bus router (20 R60-R69),
the stack (43 R270, R271), taking an exception and returning from one (60 R410, 43 R293), and reset (70 R471). -/

namespace Sys2Proof.Machine

/-! ## Byte arrays -/

/-- The byte at an address. -/
def Memory.read (m : Memory) (k : Nat) : Byte :=
  match m with
  | [] => unlistedByte
  | c :: rest => if c.1 = k then c.2 else Memory.read rest k

/-- Store a byte, keeping the canonical form: storing `unlistedByte` removes the entry. -/
def Memory.write (m : Memory) (k : Nat) (v : Byte) : Memory :=
  match m with
  | [] => if v = unlistedByte then [] else [(k, v)]
  | c :: rest =>
    if c.1 < k then c :: Memory.write rest k v
    else
      let tail := if c.1 = k then rest else c :: rest
      if v = unlistedByte then tail else (k, v) :: tail

/-- The byte array that holds `bytes` from address `base` on. -/
def Memory.ofBytes (base : Nat) (bytes : List Byte) : Memory :=
  match bytes with
  | [] => []
  | b :: rest => if b = unlistedByte then Memory.ofBytes (base + 1) rest else (base, b) :: Memory.ofBytes (base + 1) rest

/-! ## rom_mapper: NROM (20_memory.md section 6) -/

/-- `chr_is_ram`: the cartridge declares no graphics bank (R39, R84). -/
def Cartridge.chrIsRam (c : Cartridge) : Bool := c.chrBanks == 0

/-- `nrom_cpu_map` (R87): the offset in `prg` of an accepted CPU address. -/
def nromCpuMap (c : Cartridge) (a : Word) : Option Nat :=
  if 0x8000 ≤ a.toNat then
    some (a &&& (if 1 < c.prgBanks.toNat then 0x7FFF else 0x3FFF)).toNat
  else none

/-- R89: the offset in `chr` of an accepted graphics read. -/
def nromPpuReadMap (a : Word) : Option Nat := if a.toNat ≤ 0x1FFF then some a.toNat else none

/-- R90: the offset in `chr` of an accepted graphics write. -/
def nromPpuWriteMap (c : Cartridge) (a : Word) : Option Nat :=
  if a.toNat ≤ 0x1FFF && c.chrIsRam then some a.toNat else none

/-! ## The graphics address space (20_memory.md section 7) -/

/-- R94: a graphics address reduced to 0x0000-0x3FFF. -/
def graphicsAddress (a : Word) : Word := a &&& 0x3FFF

/-- `NAMETABLE_SELECT(a')` (R99): bit 10, or the other table where the parameter says so. -/
def nametableSelect (p : Params) (a : Word) : Bool := xor (a.getLsbD 10) (p.nametableFlips.contains a.toNat)

/-- The key in `Gfx.nametable` of a name-table address: byte a'[9:0] of the selected table (R99). -/
def nametableKey (p : Params) (a : Word) : Nat := 1024 * (nametableSelect p a).toNat + a.toNat % 1024

/-- `PalIndex(a')` (R100). -/
def paletteIndex (a : Word) : Nat :=
  let i := a.toNat % 32
  if i = 0x10 ∨ i = 0x14 ∨ i = 0x18 ∨ i = 0x1C then i - 0x10 else i

/-- Where a graphics access lands: an offset of `chr`, or a key of one of the internal memories (R95, R96). -/
inductive GfxTarget where
  | chr (offset : Nat)
  | pattern (key : Nat)
  | nametable (key : Nat)
  | palette (index : Nat)
deriving DecidableEq, Repr

/-- The internal memory of a graphics address the cartridge declines (R95, R96, R98-R100). The key of pattern table
a'[12] at offset a'[11:0] is a' itself. -/
def internalTarget (p : Params) (a : Word) : GfxTarget :=
  if a.toNat ≤ 0x1FFF then .pattern a.toNat
  else if a.toNat ≤ 0x3EFF then .nametable (nametableKey p a)
  else .palette (paletteIndex a)

/-- Where `PpuRead(a)` reads (R95). With no cartridge nothing is accepted (log 3). -/
def ppuReadTarget (s : State) (a : Word) : GfxTarget :=
  let a' := graphicsAddress a
  match s.cart, nromPpuReadMap a' with
  | some _, some offset => .chr offset
  | _, _ => internalTarget s.params a'

/-- Where `PpuWrite(a, v)` writes (R96). -/
def ppuWriteTarget (s : State) (a : Word) : GfxTarget :=
  let a' := graphicsAddress a
  match s.cart.bind (fun c => nromPpuWriteMap c a') with
  | some offset => .chr offset
  | none => internalTarget s.params a'

/-- The byte of a graphics location. -/
def gfxByte (s : State) (t : GfxTarget) : Byte :=
  match t with
  | .chr offset => match s.cart with
    | some c => Memory.read c.chr offset
    | none => unlistedByte
  | .pattern key => Memory.read s.gfx.pattern key
  | .nametable key => Memory.read s.gfx.nametable key
  | .palette index => Memory.read s.gfx.palette index

/-- `PpuRead(a)` (R95): it changes no state (R94). -/
def ppuRead (s : State) (a : Word) : Byte := gfxByte s (ppuReadTarget s a)

/-- `PpuWrite(a, d)` (R96): it changes the byte written and nothing else (R94). -/
def ppuWrite (s : State) (a : Word) (d : Byte) : State :=
  match ppuWriteTarget s a with
  | .chr offset => s.setCart (s.cart.map fun c => { c with chr := Memory.write c.chr offset d })
  | .pattern key => s.setGfx { s.gfx with pattern := Memory.write s.gfx.pattern key d }
  | .nametable key => s.setGfx { s.gfx with nametable := Memory.write s.gfx.nametable key d }
  | .palette index => s.setGfx { s.gfx with palette := Memory.write s.gfx.palette index d }

/-! ## graphics_register_file: the eight ports (60_exceptions.md section 6) -/

/-- The ports of R420. -/
inductive Port where
  | control | mask | status | port3 | port4 | port5 | ppuAddress | ppuData
deriving DecidableEq, Repr

/-- Port `addr & 0x0007` (R65, R420). -/
def portOf (a : Word) : Port :=
  match a.toNat % 8 with
  | 0 => .control
  | 1 => .mask
  | 2 => .status
  | 3 => .port3
  | 4 => .port4
  | 5 => .port5
  | 6 => .ppuAddress
  | _ => .ppuData

/-- What a STATUS read returns (R422). -/
def statusByte (g : Gfx) : Byte := (g.status &&& 0xE0) ||| (g.buffer &&& 0x1F)

/-- `status.VB` written (R42, R422, R441). -/
def setVBlank (g : Gfx) (v : Bool) : Gfx := { g with status := setBit g.status 7 v }

/-- What a normal read of a port returns (R422, R424, R426), which is also what a peek returns (R427). -/
def portValue (s : State) (k : Port) : Byte :=
  match k with
  | .status => statusByte s.gfx
  | .ppuData => if 0x3F00 ≤ s.gfx.v.toNat then ppuRead s s.gfx.v else s.gfx.buffer
  | .control | .mask | .port3 | .port4 | .port5 | .ppuAddress => 0x00

/-- What a normal read of a port does to the register file: STATUS clears VB (R422), PPU-DATA refills the buffer and
advances v (R424), the others nothing (R426). -/
def portReadEffect (s : State) (k : Port) : Gfx :=
  match k with
  | .status => setVBlank s.gfx false
  | .ppuData => { s.gfx with buffer := ppuRead s s.gfx.v, v := s.gfx.v + 1 }
  | .control | .mask | .port3 | .port4 | .port5 | .ppuAddress => s.gfx

/-- PPU-ADDRESS write (R423). -/
def writePpuAddress (g : Gfx) (d : Byte) : Gfx :=
  { g with
    v := if g.latch then w16 d (hiByte g.v) else w16 (loByte g.v) d
    latch := !g.latch }

/-- A CPU write to a port (R421, R423, R425, R426). -/
def portWrite (s : State) (k : Port) (d : Byte) : State :=
  match k with
  | .control => s.setGfx { s.gfx with ctrl := d }
  | .mask => s.setGfx { s.gfx with mask := d }
  | .ppuAddress => s.setGfx (writePpuAddress s.gfx d)
  | .ppuData =>
    let t := ppuWrite s s.gfx.v d
    t.setGfx { t.gfx with v := t.gfx.v + 1 }
  | .status | .port3 | .port4 | .port5 => s

/-! ## address_decoder_router: the CPU bus (20_memory.md sections 1 to 3) -/

/-- The four targets of `Route` (R62). -/
inductive Target where
  /-- stage 1: the cartridge, at an offset of `prg` (R63, R87) -/
  | prg (offset : Nat)
  /-- stage 2: RAM at `addr & 0x07FF` (R64) -/
  | ram (index : Nat)
  /-- stage 3: a graphics port (R65) -/
  | port (k : Port)
  /-- stage 4: open bus (R66) -/
  | openBus
deriving DecidableEq, Repr

/-- Stages 2 to 4 of `Route` (R62, R64-R66). -/
def routeInside (a : Word) : Target :=
  if a.toNat ≤ 0x1FFF then .ram (a.toNat % 2048)
  else if a.toNat ≤ 0x3FFF then .port (portOf a)
  else .openBus

/-- `Route(addr)` (R62): the cartridge first, if there is one. -/
def route (s : State) (a : Word) : Target :=
  match s.cart.bind (fun c => nromCpuMap c a) with
  | some offset => .prg offset
  | none => routeInside a

/-- `PeekRead(addr)` (R67): what a normal read would return, changing nothing. -/
def peek (s : State) (a : Word) : Byte :=
  match route s a with
  | .prg offset => match s.cart with
    | some c => Memory.read c.prg offset
    | none => unlistedByte
  | .ram index => Memory.read s.ram index
  | .port k => portValue s k
  | .openBus => 0x00

/-- The state after a normal read (R61): only a graphics port changes (R73). -/
def afterRead (s : State) (a : Word) : State :=
  match route s a with
  | .port k => s.setGfx (portReadEffect s k)
  | .prg _ | .ram _ | .openBus => s

/-- `MemRead(addr, 1)` (R61): the byte and the state after its side effects. -/
def memRead (s : State) (a : Word) : Byte × State := (peek s a, afterRead s a)

/-- `MemWrite(addr, 1, v)` (R61): the cartridge accepts and discards (R88), open bus ignores (R66). -/
def memWrite (s : State) (a : Word) (v : Byte) : State :=
  match route s a with
  | .ram index => s.setRam (Memory.write s.ram index v)
  | .port k => portWrite s k v
  | .prg _ | .openBus => s

/-- `Read16(a)` (R68): low byte first, the second address modulo 2^16. -/
def read16 (s : State) (a : Word) : Word × State :=
  let lo := memRead s a
  let hi := memRead lo.2 (a + 1)
  (w16 lo.1 hi.1, hi.2)

/-- `ReadZP16(p)` (R69): both bytes inside page 0. -/
def readZeroPage16 (s : State) (p : Byte) : Word × State :=
  let lo := memRead s (zext16 p)
  let hi := memRead lo.2 (zext16 (p + 1))
  (w16 lo.1 hi.1, hi.2)

/-! ## The stack (43_branch_stack_control.md section 2) -/

/-- The address of the stack byte: `0x0100 + SP`. -/
def stackAddress (sp : Byte) : Word := 0x0100 + zext16 sp

/-- `Push(v)` (R270). -/
def push (v : Byte) (s : State) : State :=
  let t := memWrite s (stackAddress s.cpu.sp) v
  t.setSP (t.cpu.sp - 1)

/-- `Pull()` (R271). -/
def pull (s : State) : Byte × State :=
  let t := s.setSP (s.cpu.sp + 1)
  memRead t (stackAddress t.cpu.sp)

/-- Push a 16-bit value, high byte first (R70). -/
def pushWord (w : Word) (s : State) : State := push (loByte w) (push (hiByte w) s)

/-- Pull a 16-bit value, low byte first (R292, R293). -/
def pullWord (s : State) : Word × State :=
  let lo := pull s
  let hi := pull lo.2
  (w16 lo.1 hi.1, hi.2)

/-! ## Taking an exception and returning from one -/

/-- What every entry through a vector does (60 R401, R410; 43 R294): push PC, push a status byte, set I, load PC from the
vector. BRK pushes P with B and U set, `irq` and `nmi` the P they leave live. -/
def enterHandler (pushed : Byte) (vector : Word) (s : State) : State :=
  let t := (push pushed (pushWord s.cpu.pc s)).setFlag .i true
  let r := read16 t vector
  r.2.setPC r.1

/-- `InterruptEntry(vector)` (R410). Writing B and U before the two PC pushes instead of after them changes nothing: no
push reads P. -/
def interruptEntry (vector : Word) (s : State) : State :=
  let t := s.setP (interruptStatus s.cpu.p)
  enterHandler t.cpu.p vector t

/-- RTI's effect (43 R293): pull P, clear B and U, pull PC. -/
def returnFromInterrupt (s : State) : State :=
  let p := pull s
  let r := pullWord (p.2.setP (returnedStatus p.1))
  r.2.setPC r.1

/-- `reset()` (70 R471, R472). The scratch fields stay as they were (DESIGN CHOICE, log 5). -/
def resetCpu (s : State) : State :=
  let lo := memRead s 0xFFFC
  let hi := memRead lo.2 0xFFFD
  let t := hi.2
  { t with
    cpu := { t.cpu with
      a := 0, x := 0, y := 0, sp := 0xFD, pc := w16 lo.1 hi.1, p := lo.1, remaining := 0 }
    wasReset := true }

/-! ## Fetch -/

/-- What a fetch has read: the opcode, the operand bytes (0 where the mode has none) and the state after the reads. -/
structure Fetched where
  opcode : Byte
  b1 : Byte
  b2 : Byte
  state : State
deriving DecidableEq, Repr

/-- Read the byte at PC and advance PC (40 R141, R147-R158). -/
def fetchByte (s : State) : Byte × State :=
  let r := memRead s s.cpu.pc
  (r.1, r.2.setPC (r.2.cpu.pc + 1))

/-- Read the opcode, advance PC, force U set (R141). -/
def fetchOpcode (s : State) : Byte × State :=
  let r := fetchByte s
  (r.1, (r.2.setOpcode r.1).setFlag .u true)

/-- Read the opcode and then its operand bytes, in address order, each once (R141, R161). The operand byte of mode IMM
is read here too: nothing lies between this read and the one R148 gives to Operand (log 6). -/
def fetch (s : State) : Fetched :=
  let o := fetchOpcode s
  match operandCount o.1 with
  | 0 => ⟨o.1, 0, 0, o.2⟩
  | 1 =>
    let x := fetchByte o.2
    ⟨o.1, x.1, 0, x.2⟩
  | _ =>
    let x := fetchByte o.2
    let y := fetchByte x.2
    ⟨o.1, x.1, y.1, y.2⟩

end Sys2Proof.Machine
end

