-- ==== Sys2Proof/Machine/Operands.lean ====
section
/-! DEFINITION. The addressing-mode mux (spec 40_execution_and_addressing.md R147-R158), `Operand()` and `Writeback()`
(R145, R146), and the shapes an instruction's execution has (R141). They run on the state `fetch` leaves: PC is past the
instruction's last byte. -/

namespace Sys2Proof.Machine

/-- The sum of an indexed mode, with its page-crossing signal (R154, R155, R158). -/
def indexedAddress (base : Word) (index : Byte) : Word × Bool :=
  let ea := base + zext16 index
  (ea, hiByte ea != hiByte base)

/-- Where IND finds the high byte of its target: in the pointer's own page (R156). -/
def indirectHighAddress (ptr : Word) : Word :=
  if loByte ptr = 0xFF then ptr &&& 0xFF00 else ptr + 1

/-- `Resolve(mode)`: the effective address or the branch offset, and the extra-cycle signal (R147-R158). -/
def resolve (o : Operand) (s : State) : State × Bool :=
  match o with
  | .imp => (s, false)
  | .imm _ => (s.setAddrAbs (s.cpu.pc - 1), false)
  | .zp0 z => (s.setAddrAbs (zext16 z), false)
  | .zpx z => (s.setAddrAbs (zext16 (z + s.cpu.x)), false)
  | .zpy z => (s.setAddrAbs (zext16 (z + s.cpu.y)), false)
  | .rel off => (s.setAddrRel (sext16 off), false)
  | .abs w => (s.setAddrAbs w, false)
  | .abx w =>
    let ea := indexedAddress w s.cpu.x
    (s.setAddrAbs ea.1, ea.2)
  | .aby w =>
    let ea := indexedAddress w s.cpu.y
    (s.setAddrAbs ea.1, ea.2)
  | .ind ptr =>
    let lo := memRead s ptr
    let hi := memRead lo.2 (indirectHighAddress ptr)
    (hi.2.setAddrAbs (w16 lo.1 hi.1), false)
  | .izx z =>
    let base := readZeroPage16 s (z + s.cpu.x)
    (base.2.setAddrAbs base.1, false)
  | .izy z =>
    let base := readZeroPage16 s z
    let ea := indexedAddress base.1 base.2.cpu.y
    (base.2.setAddrAbs ea.1, ea.2)

/-- `Operand()` (R145): A in mode IMP, the fetched byte in mode IMM (R148, log 6), else the byte at the effective
address; recorded in `fetched`. -/
def readOperand (o : Operand) (s : State) : Byte × State :=
  match o with
  | .imp => (s.cpu.a, s.setFetched s.cpu.a)
  | .imm n => (n, s.setFetched n)
  | .zp0 _ | .zpx _ | .zpy _ | .rel _ | .abs _ | .abx _ | .aby _ | .ind _ | .izx _ | .izy _ =>
    let r := memRead s s.cpu.addrAbs
    (r.1, r.2.setFetched r.1)

/-- `Writeback(v)` (R146). -/
def writeback (o : Operand) (v : Byte) (s : State) : State :=
  match o with
  | .imp => s.setA v
  | .imm _ | .zp0 _ | .zpx _ | .zpy _ | .rel _ | .abs _ | .abx _ | .aby _ | .ind _ | .izx _ | .izy _ =>
    memWrite s s.cpu.addrAbs v

/-- The start of every instruction: `remaining` set to the base count (R141). -/
def start (i : Instr) (s : State) : State := s.setRemaining (baseCycles s.params i)

/-- What an operation that may write the scratch field `temp` leaves in it: a fresh free value (R34, log 4). -/
def writeTemp (s : State) : State :=
  (s.setTemp (Config.scratchTemp s.freeCount)).setFreeCount (s.freeCount + 1)

/-- The extra cycle, added only when the mode and the operation both signal it (R142). -/
def addExtraCycle (mode operation : Bool) (s : State) : State :=
  if mode && operation then s.setRemaining (s.cpu.remaining + 1) else s

/-- The state of an instruction after `Resolve`, with the mode's signal. -/
def resolved (i : Instr) (s : State) : State × Bool := resolve i.operand (start i s)

/-- The operand of an instruction and the state after it is read. -/
def loaded (i : Instr) (s : State) : Byte × State := readOperand i.operand (resolved i s).1

/-- An instruction that reads its operand and writes registers and flags. `signal` is what its operation returns
(R159). -/
def readInstr (i : Instr) (signal : Bool) (f : Byte → State → State) (s : State) : State :=
  let m := loaded i s
  addExtraCycle (resolved i s).2 signal (f m.1 (writeTemp m.2))

/-- A read-modify-write instruction: one read, one write of the same place (R72, R145, R146). Its operation returns 0. -/
def modifyInstr (i : Instr) (result : Byte → State → Byte) (flags : Byte → State → State) (s : State) : State :=
  let m := loaded i s
  let t := writeTemp m.2
  addExtraCycle (resolved i s).2 false (writeback i.operand (result m.1 t) (flags m.1 t))

/-- A store of a register (R333-R335). Its operation returns 0. -/
def storeInstr (i : Instr) (v : State → Byte) (s : State) : State :=
  let r := resolved i s
  let t := writeTemp r.1
  addExtraCycle r.2 false (memWrite t t.cpu.addrAbs (v t))

/-- An instruction whose operation reads no operand: implied forms, branches, jumps. Its operation returns 0. -/
def plainInstr (i : Instr) (f : State → State) (s : State) : State :=
  let r := resolved i s
  addExtraCycle r.2 false (f (writeTemp r.1))

/-- An instruction whose operation reads and writes nothing, `temp` included (R340, R341). Its operation returns 0. -/
def idleInstr (i : Instr) (s : State) : State :=
  let r := resolved i s
  addExtraCycle r.2 false r.1

end Sys2Proof.Machine
end

