-- ==== Sys2Proof/Machine/Arith.lean ====
section
/-! DEFINITION. Arithmetic and logical instructions (spec 41_arithmetic_logical.md). -/

namespace Sys2Proof.Machine

/-- The body ADC and SBC share: add an addend and C into A, write C, V, Z, N (R182, R183). P.D is not read. -/
def addToA (m : Byte) (s : State) : State :=
  (s.setP (addFlags s.cpu.p s.cpu.a m (s.flag .c))).setA (addResult s.cpu.a m (s.flag .c))

/-- Load A and set Z and N from it. -/
def putA (v : Byte) (s : State) : State := setZN v (s.setA v)

/-- ADC (R182). -/
def execAdc (f : AluForm) (s : State) : Result := .next (readInstr (.adc f) true addToA s)

/-- SBC: ADC of the complemented operand (R183). -/
def execSbc (f : AluForm) (s : State) : Result := .next (readInstr (.sbc f) true (fun m => addToA (m ^^^ 0xFF)) s)

/-- AND (R184). -/
def execAnd (f : AluForm) (s : State) : Result :=
  .next (readInstr (.and f) true (fun m t => putA (t.cpu.a &&& m) t) s)

/-- ORA (R185). -/
def execOra (f : AluForm) (s : State) : Result :=
  .next (readInstr (.ora f) true (fun m t => putA (t.cpu.a ||| m) t) s)

/-- EOR (R186). -/
def execEor (f : AluForm) (s : State) : Result :=
  .next (readInstr (.eor f) true (fun m t => putA (t.cpu.a ^^^ m) t) s)

/-- BIT (R187): A is not written. -/
def execBit (f : BitForm) (s : State) : Result :=
  .next (readInstr (.bit f) false (fun m t => t.setP (bitFlags t.cpu.p t.cpu.a m)) s)

end Sys2Proof.Machine
end

