-- ==== Sys2Proof/Machine/Control.lean ====
section
/-! DEFINITION. Branches, stack operations and control transfers (spec 43_branch_stack_control.md). -/

namespace Sys2Proof.Machine

/-- `Branch(cond)` (R260): a taken branch adds 1 cycle, 2 when the target lies in another page than the instruction
after the branch; the target wraps modulo 2^16. -/
def branchIf (cond : Bool) (s : State) : State :=
  if cond then
    let target := s.cpu.pc + s.cpu.addrRel
    let extra := if hiByte target = hiByte s.cpu.pc then 1 else 2
    (s.setRemaining (s.cpu.remaining + extra)).setPC target
  else s

/-- BCC (R261). -/
def execBcc (off : Byte) (s : State) : Result := .next (plainInstr (.bcc off) (fun t => branchIf (!t.flag .c) t) s)

/-- BCS (R262). -/
def execBcs (off : Byte) (s : State) : Result := .next (plainInstr (.bcs off) (fun t => branchIf (t.flag .c) t) s)

/-- BEQ (R263). -/
def execBeq (off : Byte) (s : State) : Result := .next (plainInstr (.beq off) (fun t => branchIf (t.flag .z) t) s)

/-- BNE (R264). -/
def execBne (off : Byte) (s : State) : Result := .next (plainInstr (.bne off) (fun t => branchIf (!t.flag .z) t) s)

/-- BMI (R265). -/
def execBmi (off : Byte) (s : State) : Result := .next (plainInstr (.bmi off) (fun t => branchIf (t.flag .n) t) s)

/-- BPL (R266). -/
def execBpl (off : Byte) (s : State) : Result := .next (plainInstr (.bpl off) (fun t => branchIf (!t.flag .n) t) s)

/-- BVC (R267). -/
def execBvc (off : Byte) (s : State) : Result := .next (plainInstr (.bvc off) (fun t => branchIf (!t.flag .v) t) s)

/-- BVS (R268). -/
def execBvs (off : Byte) (s : State) : Result := .next (plainInstr (.bvs off) (fun t => branchIf (t.flag .v) t) s)

/-- PHP (R272): the pushed byte has B = 1 and U = 1, the live P is unchanged. -/
def execPhp (s : State) : Result := .next (plainInstr .php (fun t => push (softwareStatus t.cpu.p) t) s)

/-- PHA (R273). -/
def execPha (s : State) : Result := .next (plainInstr .pha (fun t => push t.cpu.a t) s)

/-- PLA (R274). -/
def execPla (s : State) : Result := .next (plainInstr .pla (fun t => putA (pull t).1 (pull t).2) s)

/-- PLP (R275): all eight bits. -/
def execPlp (s : State) : Result := .next (plainInstr .plp (fun t => (pull t).2.setP (pull t).1) s)

/-- JMP (R290): the target is not read. -/
def execJmp (f : JmpForm) (s : State) : Result := .next (plainInstr (.jmp f) (fun t => t.setPC t.cpu.addrAbs) s)

/-- JSR (R291): push the address of its own last byte, high byte first. -/
def execJsr (target : Word) (s : State) : Result :=
  .next (plainInstr (.jsr target) (fun t => (pushWord (t.cpu.pc - 1) t).setPC t.cpu.addrAbs) s)

/-- RTS (R292). -/
def execRts (s : State) : Result :=
  .next (plainInstr .rts (fun t => (pullWord t).2.setPC ((pullWord t).1 + 1)) s)

/-- RTI (R293). -/
def execRti (s : State) : Result := .next (plainInstr .rti returnFromInterrupt s)

/-- BRK (R294): skip the byte after the opcode, enter through the IRQ vector, push B = 1 and U = 1; not gated by I. -/
def execBrk (s : State) : Result :=
  .next (plainInstr .brk
    (fun t => enterHandler (softwareStatus t.cpu.p) 0xFFFE (t.setPC (t.cpu.pc + 1))) s)

end Sys2Proof.Machine
end

