-- ==== Sys2Proof/Machine/Shift.lean ====
section
/-! DEFINITION. Shifts, rotates, increments, decrements and compares (spec 42_shift_incdec_compare.md). -/

namespace Sys2Proof.Machine

/-- The flags of a shift: C is the bit shifted out, Z and N come from the result (R220-R223). -/
def shiftFlags (out : Bool) (r : Byte) (s : State) : State := setZN r (s.setFlag .c out)

/-- The result of ASL (R220). -/
def aslResult (v : Byte) : Byte := v <<< 1

/-- The result of LSR (R221). -/
def lsrResult (v : Byte) : Byte := v >>> 1

/-- The result of ROL: C enters at bit 0 (R222). -/
def rolResult (v : Byte) (c : Bool) : Byte := (v <<< 1) ||| (if c then 0x01 else 0x00)

/-- The result of ROR: C enters at bit 7 (R223). -/
def rorResult (v : Byte) (c : Bool) : Byte := (if c then 0x80 else 0x00) ||| (v >>> 1)

/-- ASL (R220). -/
def execAsl (f : ShiftForm) (s : State) : Result :=
  .next (modifyInstr (.asl f) (fun v _ => aslResult v) (fun v t => shiftFlags (v.getLsbD 7) (aslResult v) t) s)

/-- LSR (R221). -/
def execLsr (f : ShiftForm) (s : State) : Result :=
  .next (modifyInstr (.lsr f) (fun v _ => lsrResult v) (fun v t => shiftFlags (v.getLsbD 0) (lsrResult v) t) s)

/-- ROL (R222). -/
def execRol (f : ShiftForm) (s : State) : Result :=
  .next (modifyInstr (.rol f) (fun v t => rolResult v (t.flag .c))
    (fun v t => shiftFlags (v.getLsbD 7) (rolResult v (t.flag .c)) t) s)

/-- ROR (R223). -/
def execRor (f : ShiftForm) (s : State) : Result :=
  .next (modifyInstr (.ror f) (fun v t => rorResult v (t.flag .c))
    (fun v t => shiftFlags (v.getLsbD 0) (rorResult v (t.flag .c)) t) s)

/-- INC (R224). -/
def execInc (f : IncForm) (s : State) : Result :=
  .next (modifyInstr (.inc f) (fun v _ => v + 1) (fun v t => setZN (v + 1) t) s)

/-- DEC (R225). -/
def execDec (f : IncForm) (s : State) : Result :=
  .next (modifyInstr (.dec f) (fun v _ => v - 1) (fun v t => setZN (v - 1) t) s)

/-- Write X and set Z and N from it. -/
def putX (v : Byte) (s : State) : State := setZN v (s.setX v)

/-- Write Y and set Z and N from it. -/
def putY (v : Byte) (s : State) : State := setZN v (s.setY v)

/-- INX (R226). -/
def execInx (s : State) : Result := .next (plainInstr .inx (fun t => putX (t.cpu.x + 1) t) s)

/-- INY (R227). -/
def execIny (s : State) : Result := .next (plainInstr .iny (fun t => putY (t.cpu.y + 1) t) s)

/-- DEX (R228). -/
def execDex (s : State) : Result := .next (plainInstr .dex (fun t => putX (t.cpu.x - 1) t) s)

/-- DEY (R229). -/
def execDey (s : State) : Result := .next (plainInstr .dey (fun t => putY (t.cpu.y - 1) t) s)

/-- `Compare(reg, m)` (R230): no register written. -/
def compareWith (reg m : Byte) (s : State) : State := s.setP (compareFlags s.cpu.p reg m)

/-- CMP (R231). -/
def execCmp (f : AluForm) (s : State) : Result :=
  .next (readInstr (.cmp f) true (fun m t => compareWith t.cpu.a m t) s)

/-- CPX (R232). -/
def execCpx (f : IndexCompareForm) (s : State) : Result :=
  .next (readInstr (.cpx f) false (fun m t => compareWith t.cpu.x m t) s)

/-- CPY (R233). -/
def execCpy (f : IndexCompareForm) (s : State) : Result :=
  .next (readInstr (.cpy f) false (fun m t => compareWith t.cpu.y m t) s)

end Sys2Proof.Machine
end

