-- ==== Sys2Proof/Machine/Transfer.lean ====
section
/-! DEFINITION. Flag operations, register transfers, loads, stores, NOP and the placeholder (spec
44_flags_transfer_loadstore.md). -/

namespace Sys2Proof.Machine

/-- CLC (R310). -/
def execClc (s : State) : Result := .next (plainInstr .clc (fun t => t.setFlag .c false) s)

/-- SEC (R311). -/
def execSec (s : State) : Result := .next (plainInstr .sec (fun t => t.setFlag .c true) s)

/-- CLI (R312). -/
def execCli (s : State) : Result := .next (plainInstr .cli (fun t => t.setFlag .i false) s)

/-- SEI (R313). -/
def execSei (s : State) : Result := .next (plainInstr .sei (fun t => t.setFlag .i true) s)

/-- CLD (R314). -/
def execCld (s : State) : Result := .next (plainInstr .cld (fun t => t.setFlag .d false) s)

/-- SED (R315). -/
def execSed (s : State) : Result := .next (plainInstr .sed (fun t => t.setFlag .d true) s)

/-- CLV (R316). -/
def execClv (s : State) : Result := .next (plainInstr .clv (fun t => t.setFlag .v false) s)

/-- TAX (R320). -/
def execTax (s : State) : Result := .next (plainInstr .tax (fun t => putX t.cpu.a t) s)

/-- TAY (R321). -/
def execTay (s : State) : Result := .next (plainInstr .tay (fun t => putY t.cpu.a t) s)

/-- TXA (R322). -/
def execTxa (s : State) : Result := .next (plainInstr .txa (fun t => putA t.cpu.x t) s)

/-- TYA (R323). -/
def execTya (s : State) : Result := .next (plainInstr .tya (fun t => putA t.cpu.y t) s)

/-- TSX (R324). -/
def execTsx (s : State) : Result := .next (plainInstr .tsx (fun t => putX t.cpu.sp t) s)

/-- TXS (R325): no flag. -/
def execTxs (s : State) : Result := .next (plainInstr .txs (fun t => t.setSP t.cpu.x) s)

/-- LDA (R330). -/
def execLda (f : AluForm) (s : State) : Result := .next (readInstr (.lda f) true putA s)

/-- LDX (R331). -/
def execLdx (f : LdxForm) (s : State) : Result := .next (readInstr (.ldx f) true putX s)

/-- LDY (R332). -/
def execLdy (f : LdyForm) (s : State) : Result := .next (readInstr (.ldy f) true putY s)

/-- STA (R333). -/
def execSta (f : StaForm) (s : State) : Result := .next (storeInstr (.sta f) (fun t => t.cpu.a) s)

/-- STX (R334). -/
def execStx (f : StxForm) (s : State) : Result := .next (storeInstr (.stx f) (fun t => t.cpu.x) s)

/-- STY (R335). -/
def execSty (f : StyForm) (s : State) : Result := .next (storeInstr (.sty f) (fun t => t.cpu.y) s)

/-- NOP (R340). -/
def execNop (s : State) : Result := .next (idleInstr .nop s)

/-- The placeholder of the undocumented opcodes (R341): no effect but its cycle count. -/
def execXxx (opcode : Byte) (s : State) : Result := .next (idleInstr (.xxx opcode) s)

end Sys2Proof.Machine
end

