-- ==== Sys2Proof/Machine/Dispatch.lean ====
section
/-! DEFINITION. One arm per constructor of `Instr`, each one direct call of its meaning. -/

namespace Sys2Proof.Machine

/-- The effect of an instruction on the state `fetch` leaves (PC past its last byte, U set). -/
def exec (i : Instr) (s : State) : Host.Outcome State Fault Refusal :=
  match i with
  -- 41_arithmetic_logical.md
  | .adc f => Sys2Proof.Machine.execAdc f s
  | .sbc f => Sys2Proof.Machine.execSbc f s
  | .and f => Sys2Proof.Machine.execAnd f s
  | .ora f => Sys2Proof.Machine.execOra f s
  | .eor f => Sys2Proof.Machine.execEor f s
  | .bit f => Sys2Proof.Machine.execBit f s
  -- 42_shift_incdec_compare.md
  | .asl f => Sys2Proof.Machine.execAsl f s
  | .lsr f => Sys2Proof.Machine.execLsr f s
  | .rol f => Sys2Proof.Machine.execRol f s
  | .ror f => Sys2Proof.Machine.execRor f s
  | .inc f => Sys2Proof.Machine.execInc f s
  | .dec f => Sys2Proof.Machine.execDec f s
  | .inx => Sys2Proof.Machine.execInx s
  | .iny => Sys2Proof.Machine.execIny s
  | .dex => Sys2Proof.Machine.execDex s
  | .dey => Sys2Proof.Machine.execDey s
  | .cmp f => Sys2Proof.Machine.execCmp f s
  | .cpx f => Sys2Proof.Machine.execCpx f s
  | .cpy f => Sys2Proof.Machine.execCpy f s
  -- 43_branch_stack_control.md
  | .bcc f => Sys2Proof.Machine.execBcc f s
  | .bcs f => Sys2Proof.Machine.execBcs f s
  | .beq f => Sys2Proof.Machine.execBeq f s
  | .bne f => Sys2Proof.Machine.execBne f s
  | .bmi f => Sys2Proof.Machine.execBmi f s
  | .bpl f => Sys2Proof.Machine.execBpl f s
  | .bvc f => Sys2Proof.Machine.execBvc f s
  | .bvs f => Sys2Proof.Machine.execBvs f s
  | .php => Sys2Proof.Machine.execPhp s
  | .pha => Sys2Proof.Machine.execPha s
  | .pla => Sys2Proof.Machine.execPla s
  | .plp => Sys2Proof.Machine.execPlp s
  | .jmp f => Sys2Proof.Machine.execJmp f s
  | .jsr f => Sys2Proof.Machine.execJsr f s
  | .rts => Sys2Proof.Machine.execRts s
  | .rti => Sys2Proof.Machine.execRti s
  | .brk => Sys2Proof.Machine.execBrk s
  -- 44_flags_transfer_loadstore.md
  | .clc => Sys2Proof.Machine.execClc s
  | .sec => Sys2Proof.Machine.execSec s
  | .cli => Sys2Proof.Machine.execCli s
  | .sei => Sys2Proof.Machine.execSei s
  | .cld => Sys2Proof.Machine.execCld s
  | .sed => Sys2Proof.Machine.execSed s
  | .clv => Sys2Proof.Machine.execClv s
  | .tax => Sys2Proof.Machine.execTax s
  | .tay => Sys2Proof.Machine.execTay s
  | .txa => Sys2Proof.Machine.execTxa s
  | .tya => Sys2Proof.Machine.execTya s
  | .tsx => Sys2Proof.Machine.execTsx s
  | .txs => Sys2Proof.Machine.execTxs s
  | .lda f => Sys2Proof.Machine.execLda f s
  | .ldx f => Sys2Proof.Machine.execLdx f s
  | .ldy f => Sys2Proof.Machine.execLdy f s
  | .sta f => Sys2Proof.Machine.execSta f s
  | .stx f => Sys2Proof.Machine.execStx f s
  | .sty f => Sys2Proof.Machine.execSty f s
  | .nop => Sys2Proof.Machine.execNop s
  | .xxx f => Sys2Proof.Machine.execXxx f s

end Sys2Proof.Machine
end

