-- ==== Sys2Proof/Machine/TimerTick.lean ====
section
/-! DEFINITION. The graphics timer (spec 60_exceptions.md section 7). -/

namespace Sys2Proof.Machine

/-- `VBlankEvents()` on the values at entry of a tick (R441). No interrupt is requested. -/
def vblankEvents (t : Timer) (g : Gfx) : Gfx :=
  if t.scanline = -1 ∧ t.cycle = 1 then setVBlank g false
  else if t.scanline = 241 ∧ t.cycle = 1 then setVBlank g true
  else g

/-- The advance of the counters (R440). -/
def advanceTimer (t : Timer) : Timer :=
  if 341 ≤ t.cycle + 1 then
    if 261 ≤ t.scanline + 1 then { scanline := -1, cycle := 0, frameComplete := true }
    else { t with scanline := t.scanline + 1, cycle := 0 }
  else { t with cycle := t.cycle + 1 }

/-- `timer_tick()` (R440): the events, then the advance. -/
def timerTick (s : State) : State :=
  (s.setGfx (vblankEvents s.timer s.gfx)).setTimer (advanceTimer s.timer)

/-- `n` timer ticks. -/
def timerTicks (n : Nat) (s : State) : State :=
  match n with
  | 0 => s
  | k + 1 => timerTicks k (timerTick s)

end Sys2Proof.Machine
end

