-- ==== Sys2Proof/Machine/Clock.lean ====
section
/-! DEFINITION. The tick state machine (spec 40_execution_and_addressing.md R140-R144), the clock group (60 R446) and the
host's `step()` (60 R450). -/

namespace Sys2Proof.Machine

/-- Go on with the next state, or stop as the result stops. -/
def andThen (r : Result) (f : State → Result) : Result :=
  match r with
  | .next s => f s
  | .fault e => .fault e
  | .refused e => .refused e

/-- `FetchExecute()` (R141): fetch, decode, execute. -/
def fetchExecute (s : State) : Result :=
  let f := fetch s
  exec (assemble f.opcode f.b1 f.b2) f.state

/-- Every CPU tick counts one cycle (R144). -/
def countCycle (s : State) : State := s.setTotalCycles (s.cpu.totalCycles + 1)

/-- Whether the fetch tick counts as the instruction's first cycle (R143). -/
def chargeFetchTick (s : State) : State :=
  if s.params.fetchTickDecrements then s.setRemaining (s.cpu.remaining - 1) else s

/-- `cpu_tick()` (R140). Refused before the first `reset()` (70 R478). -/
def cpuTick (s : State) : Result :=
  if s.wasReset then
    if s.cpu.remaining = 0 then
      andThen (fetchExecute s) (fun t => .next (countCycle (chargeFetchTick t)))
    else .next (countCycle (s.setRemaining (s.cpu.remaining - 1)))
  else .refused .tickBeforeReset

/-- The timer ticks of a clock group that come before its CPU tick (INTERLEAVE, R446). -/
def leadingTimerTicks (s : State) : State := timerTicks s.params.timerTicksBeforeCpu.val s

/-- The timer ticks of a clock group that come after its CPU tick. -/
def trailingTimerTicks (s : State) : State := timerTicks (3 - s.params.timerTicksBeforeCpu.val) s

/-- `clock_group()` (R446): three timer ticks and one CPU tick. -/
def clockGroup (s : State) : Result :=
  andThen (cpuTick (leadingTimerTicks s)) (fun t => .next (trailingTimerTicks t))

/-- `while remaining != 0: clock_group()` (R450), at most `fuel` groups. A group lowers a nonzero `remaining` by 1, so
`remaining` groups are enough. -/
def finishInstruction (fuel : Nat) (s : State) : Result :=
  match fuel with
  | 0 => .next s
  | k + 1 => if s.cpu.remaining = 0 then .next s else andThen (clockGroup s) (finishInstruction k)

/-- The host's `step()` (R450): finish the current instruction or entry, then the group that fetches and executes the
next. Its last loop, reached only if a count of 1 left 0, never runs: every count is at least 2 (log 7). -/
def stepInstruction (s : State) : Result := andThen (finishInstruction s.cpu.remaining s) clockGroup

/-! ## Placing an instruction where the next step fetches -/

/-- The bytes stored in RAM from an index on, the index taken modulo 2048 (20 R64). -/
def storeInRam (m : Memory) (index : Nat) (bytes : List Byte) : Memory :=
  match bytes with
  | [] => m
  | b :: rest => storeInRam (Memory.write m (index % 2048) b) (index + 1) rest

/-- The bytes stored in the program ROM behind a CPU address (20 R87). -/
def storeInRom (c : Cartridge) (a : Word) (bytes : List Byte) : Cartridge :=
  match bytes with
  | [] => c
  | b :: rest =>
    storeInRom (match nromCpuMap c a with
      | some offset => { c with prg := Memory.write c.prg offset b }
      | none => c) (a + 1) rest

/-- The bytes stored where the next instruction is fetched: in RAM or in the loaded program ROM when PC and the two
bytes after it lie there, else in RAM at 0x0000 with PC moved there, since ports and open bus hold no code (log 13). -/
def placeInstruction (bytes : List Byte) (s : State) : State :=
  if s.cpu.pc.toNat ≤ 0x1FFD then s.setRam (storeInRam s.ram s.cpu.pc.toNat bytes)
  else if 0x8000 ≤ s.cpu.pc.toNat ∧ s.cpu.pc.toNat ≤ 0xFFFD ∧ s.cart.isSome then
    s.setCart (s.cart.map fun c => storeInRom c s.cpu.pc bytes)
  else (s.setRam (storeInRam s.ram 0 bytes)).setPC 0x0000

end Sys2Proof.Machine
end

