-- ==== Sys2Proof/Machine/Step.lean ====
section
/-! DEFINITION. One step: the host's `step()` (spec 60_exceptions.md R450), in Clock.lean. -/

namespace Sys2Proof.Machine

/-- One step of the machine. -/
def step (s : State) : Host.Outcome State Fault Refusal := stepInstruction s

/-- `s` with the instruction of a table word stored where `step` fetches its next instruction, and ticks admitted. -/
def State.withFetchWord (s : State) (nbits w : Nat) : State :=
  (placeInstruction (tableBytes nbits w) s).setWasReset true

end Sys2Proof.Machine
end

