-- ==== Sys2Proof/Machine/CartridgeLoad.lean ====
section
/-! DEFINITION. Loading a cartridge image (spec 20_memory.md section 5). -/

namespace Sys2Proof.Machine

/-- Header byte `k` (R80). -/
def headerByte (image : List Byte) (k : Nat) : Byte := image.getD k 0

/-- `mapper_id` (R81): low nibble from byte 6, high nibble from byte 7. -/
def imageMapperId (image : List Byte) : Byte := (headerByte image 7 &&& 0xF0) ||| (headerByte image 6 >>> 4)

/-- Where the program bytes start: after the 16-byte header and the trainer, if the header announces one (R82). -/
def programStart (p : Params) (image : List Byte) : Nat :=
  if headerByte image 6 &&& p.trainerMask ≠ 0 then 16 + 512 else 16

/-- The number of program bytes (R83). -/
def programSize (image : List Byte) : Nat := 16384 * (headerByte image 4).toNat

/-- The number of graphics bytes in the image (R83). -/
def graphicsSize (image : List Byte) : Nat := 8192 * (headerByte image 5).toNat

/-- Header bytes 0 to 3 equal MAGIC (R92). -/
def hasMagic (p : Params) (image : List Byte) : Bool :=
  (headerByte image 0, headerByte image 1, headerByte image 2, headerByte image 3) == p.magic

/-- The cartridge of an accepted image (R83, R84). With no graphics bank `chr` lists nothing: 8192 bytes, all 0. -/
def imageCartridge (p : Params) (image : List Byte) : Cartridge :=
  let body := image.drop (programStart p image)
  { prgBanks := headerByte image 4
    chrBanks := headerByte image 5
    mapperId := imageMapperId image
    prg := Memory.ofBytes 0 (body.take (programSize image))
    chr := Memory.ofBytes 0 (body.drop (programSize image)) }

/-- The image as a cartridge, or why its load is fatal. Where several reasons hold the first of this order is reported
(DESIGN CHOICE, log 9). -/
def parseImage (p : Params) (image : List Byte) : Except Fault Cartridge :=
  if image.length < 16 then .error .lengthMismatch
  else if p.validateMagic && !hasMagic p image then .error .badMagic
  else if imageMapperId image ≠ 0 then .error .unsupportedMapper
  else if headerByte image 4 = 0 then .error .noProgramBank
  else if image.length ≠ programStart p image + programSize image + graphicsSize image then .error .lengthMismatch
  else .ok (imageCartridge p image)

/-- `load_cartridge(image)` (R93): the whole cartridge is replaced and no other state is touched; a fatal load ends the
run (R83). -/
def loadCartridge (image : List Byte) (s : State) : Result :=
  match parseImage s.params image with
  | .ok c => .next (s.setCart (some c))
  | .error r => .fault r

end Sys2Proof.Machine
end

