-- ==== Sys2Proof/Machine/HostCalls.lean ====
section
/-! DEFINITION. The host interface (spec 00_scope.md R12, 60_exceptions.md R453): interrupts, reset, loading, ticks, the
renderer's graphics accesses. What lands between two steps lands through `hostCall` (log 8). -/

namespace Sys2Proof.Machine

/-- An interrupt is admitted only at an instruction boundary (R403). -/
def atBoundary (s : State) (f : State → State) : Result :=
  if s.cpu.remaining = 0 then .next (f s) else .refused .interruptMidInstruction

/-- `irq()` (R411): nothing if I is set. -/
def irq (s : State) : Result :=
  atBoundary s fun t => if t.flag .i then t else (interruptEntry 0xFFFE t).setRemaining 7

/-- `nmi()` (R412). -/
def nmi (s : State) : Result :=
  atBoundary s fun t => (interruptEntry 0xFFFA t).setRemaining 8

/-- The calls of the host. `ppuRead`, `peek` and `describe` answer a value (`Machine.ppuRead`, `Machine.peek`,
`Sys2Proof.describe`) and change nothing. -/
inductive HostCall where
  | loadCartridge (image : List Byte)
  | reset
  | irq
  | nmi
  | cpuTick
  | timerTick
  | clockGroup
  | step
  | ppuRead (a : Word)
  | ppuWrite (a : Word) (d : Byte)
  | peek (a : Word)
  | describe (opcode : Byte)
  | clearFrameComplete
deriving DecidableEq, Repr

/-- What a call of the host does to the machine. The renderer's accesses are admitted between any two calls, between
single `timerTick` and `cpuTick` calls as well: R453 and R488 admit them only between clock groups, U18 refuses one during
a group, and no rule says whether single ticks of the host (00 R12) form a group (DESIGN CHOICE, log 18). -/
def hostCall (c : HostCall) (s : State) : Result :=
  match c with
  | .loadCartridge image => loadCartridge image s
  | .reset => .next (resetCpu s)
  | .irq => irq s
  | .nmi => nmi s
  | .cpuTick => cpuTick s
  | .timerTick => .next (timerTick s)
  | .clockGroup => clockGroup s
  | .step => stepInstruction s
  | .ppuRead _ => .next s
  | .ppuWrite a d => .next (ppuWrite s a d)
  | .peek _ => .next s
  | .describe _ => .next s
  | .clearFrameComplete => .next (s.setTimer { s.timer with frameComplete := false })

end Sys2Proof.Machine
end

