-- ==== Sys2Proof/Safety.lean ====
section
/-! DEFINITION. The terms claims are stated in: the invariant of a well-formed machine, what an instruction leaves
unchanged, the cycle table and the graphics addresses in numbers. A safe run is one whose every state satisfies
`State.Inv`. -/

namespace Sys2Proof.Machine

/-! ## The invariant -/

/-- A cartridge a load can give (spec 20_memory.md R83-R86, R91): NROM, at least one program bank, arrays in canonical
form and inside their sizes. -/
structure Cartridge.Inv (c : Cartridge) : Prop where
  mapper : c.mapperId = 0
  banks : c.prgBanks ≠ 0
  prgForm : Memory.wf c.prg
  prgSize : Memory.below c.prg (16384 * c.prgBanks.toNat)
  chrForm : Memory.wf c.chr
  chrSize : Memory.below c.chr (if c.chrIsRam then 8192 else 8192 * c.chrBanks.toNat)

/-- The graphics register file: STATUS holds nothing but VB (10 R42, 93 U19, U20), the memories are in canonical form
and inside their sizes, and no aliased palette entry is stored (10 R47). -/
structure Gfx.Inv (g : Gfx) : Prop where
  statusBits : g.status &&& 0x7F = 0
  nametableForm : Memory.wf g.nametable
  nametableSize : Memory.below g.nametable 2048
  paletteForm : Memory.wf g.palette
  paletteSize : Memory.below g.palette 32
  paletteAlias : ∀ c ∈ g.palette, c.1 ∉ [0x10, 0x14, 0x18, 0x1C]
  patternForm : Memory.wf g.pattern
  patternSize : Memory.below g.pattern 8192

/-- The counters stay in their ranges (10 R49, R50). -/
structure Timer.Inv (t : Timer) : Prop where
  scanlineLow : -1 ≤ t.scanline
  scanlineHigh : t.scanline ≤ 260
  cycleHigh : t.cycle ≤ 340

/-- A well-formed machine. -/
structure State.Inv (s : State) : Prop where
  ramForm : Memory.wf s.ram
  ramSize : Memory.below s.ram 2048
  cartridge : ∀ c, s.cart = some c → c.Inv
  graphics : s.gfx.Inv
  counters : s.timer.Inv

/-- `remaining` is at most 8 (10 R35), given that no UNDOC_CYCLES is more than that. -/
structure State.CyclesBounded (s : State) : Prop where
  parameter : ∀ opcode, undocCycles s.params opcode ≤ 8
  remaining : s.cpu.remaining ≤ 8

/-! ## Frames -/

/-- The registers a frame speaks of. -/
inductive Reg where
  | a | x | y | sp | pc
deriving DecidableEq, Repr

/-- Every register not listed is unchanged. -/
def RegsKept (written : List Reg) (s t : State) : Prop :=
  (Reg.a ∉ written → t.cpu.a = s.cpu.a) ∧ (Reg.x ∉ written → t.cpu.x = s.cpu.x) ∧
  (Reg.y ∉ written → t.cpu.y = s.cpu.y) ∧ (Reg.sp ∉ written → t.cpu.sp = s.cpu.sp) ∧
  (Reg.pc ∉ written → t.cpu.pc = s.cpu.pc)

/-- Every flag of P not listed is unchanged, the unused and break bits among them. -/
def FlagsKept (written : List Flag) (s t : State) : Prop := ∀ f, f ∉ written → t.flag f = s.flag f

/-- What no instruction writes: the timer, the parameters, the cycle total and the opcode scratch field. The other
scratch fields (R34) and `remaining` are not part of a frame. -/
def OthersKept (s t : State) : Prop :=
  t.timer = s.timer ∧ t.params = s.params ∧ t.wasReset = s.wasReset ∧ t.cpu.totalCycles = s.cpu.totalCycles ∧
  t.cpu.opcode = s.cpu.opcode

/-- Every byte of the CPU space and of the graphics space reads as before, and so do the memories and the register
file. -/
def MemoryKept (s t : State) : Prop :=
  (∀ a, peek t a = peek s a) ∧ (∀ a, ppuRead t a = ppuRead s a) ∧
  t.ram = s.ram ∧ t.cart = s.cart ∧ t.gfx = s.gfx

/-- A CPU address of the graphics port window (R65). -/
def IsPortAddress (a : Word) : Prop := 0x2000 ≤ a.toNat ∧ a.toNat ≤ 0x3FFF

/-- Every byte outside the port window, the whole graphics space and every memory read as before. -/
def BytesKept (s t : State) : Prop :=
  (∀ a, ¬ IsPortAddress a → peek t a = peek s a) ∧ (∀ a, ppuRead t a = ppuRead s a) ∧
  t.ram = s.ram ∧ t.cart = s.cart ∧
  t.gfx.nametable = s.gfx.nametable ∧ t.gfx.palette = s.gfx.palette ∧ t.gfx.pattern = s.gfx.pattern

/-- What an instruction that only reads memory leaves: every byte, and the register file as its own reads leave it. -/
def ReadFrame (i : Instr) (s t : State) : Prop :=
  BytesKept s t ∧ t.gfx = (loaded i s).2.gfx ∧ OthersKept s t

/-- The address of the byte an instruction loads from or stores to: `addr_abs` after its mode resolves. -/
def effectiveAddress (i : Instr) (s : State) : Word := (resolved i s).1.cpu.addrAbs

/-- The value of an instruction's operand. -/
def operandValue (i : Instr) (s : State) : Byte := (loaded i s).1

/-- The 16-bit value at a place of page 0 modulo 256, its second byte one place on, modulo 256 (R69). -/
def zeroPagePointer (s : State) (n : Nat) : Nat :=
  (peek s (BitVec.ofNat 16 (n % 256))).toNat + 256 * (peek s (BitVec.ofNat 16 ((n + 1) % 256))).toNat

/-- Two CPU addresses of the RAM range that are the same RAM byte (R64). -/
def SameRamByte (a b : Word) : Prop := a.toNat ≤ 0x1FFF ∧ b.toNat ≤ 0x1FFF ∧ a.toNat % 2048 = b.toNat % 2048

/-- `t` is `s` after the one byte `v` is stored at CPU address `ea`: in RAM that byte and its mirrors read `v` and every
other address reads as before; at 0x4000 and above nothing changes; at a port the port's own write rule holds and every
address outside the port window reads as before. -/
def ByteStored (ea : Word) (v : Byte) (s t : State) : Prop :=
  (ea.toNat ≤ 0x1FFF →
    (∀ b, SameRamByte b ea → peek t b = v) ∧ (∀ b, ¬ SameRamByte b ea → peek t b = peek s b) ∧
    (∀ a, ppuRead t a = ppuRead s a) ∧ t.cart = s.cart ∧ t.gfx = s.gfx) ∧
  (0x4000 ≤ ea.toNat → MemoryKept s t) ∧
  (IsPortAddress ea →
    (∀ b, ¬ IsPortAddress b → peek t b = peek s b) ∧ t.ram = s.ram ∧
    t.cart = (portWrite s (portOf ea) v).cart ∧ t.gfx = (portWrite s (portOf ea) v).gfx)

/-- `t` is `s` after the bytes `pushed` are pushed, the first at `0x0100 + SP`, each next one stack byte lower: each of
those bytes and its mirrors reads the byte pushed, every other byte of both spaces reads as before, SP is down by their
number modulo 256 (R270). -/
def StackPushed (pushed : List Byte) (s t : State) : Prop :=
  (∀ k v, pushed[k]? = some v → ∀ b, SameRamByte b (stackAddress (s.cpu.sp - BitVec.ofNat 8 k)) → peek t b = v) ∧
  (∀ b, (∀ k, k < pushed.length → ¬ SameRamByte b (stackAddress (s.cpu.sp - BitVec.ofNat 8 k))) →
    peek t b = peek s b) ∧
  (∀ a, ppuRead t a = ppuRead s a) ∧ t.cart = s.cart ∧ t.gfx = s.gfx ∧
  t.cpu.sp = s.cpu.sp - BitVec.ofNat 8 pushed.length

/-- The stack page of two states reads alike. -/
def SameStackPage (s t : State) : Prop := ∀ p, peek t (stackAddress p) = peek s (stackAddress p)

/-- Z and N as SetZN leaves them for a result (R180; the formula is the spec's own, from general knowledge, log 16). -/
def ZeroNegativeOf (r : Byte) (t : State) : Prop :=
  (t.flag .z = true ↔ r.toNat = 0) ∧ (t.flag .n = true ↔ 128 ≤ r.toNat)

/-- A flag as a number. -/
def flagNat (s : State) (f : Flag) : Nat := if s.flag f then 1 else 0

/-- What a read-modify-write instruction with result `r` leaves (R146): in mode IMP A holds `r` and memory reads as
before; in a memory mode the byte at the effective address is stored and no register changes. Where that address is a
port, the store follows the effect of the instruction's own read of the port. -/
def ModifiesTo (i : Instr) (r : Byte) (written : List Flag) (s t : State) : Prop :=
  ZeroNegativeOf r t ∧ FlagsKept written s t ∧ OthersKept s t ∧
  (i.operand.mode = .imp → t.cpu.a = r ∧ RegsKept [.a] s t ∧ MemoryKept s t) ∧
  (i.operand.mode ≠ .imp → RegsKept [] s t ∧
    (¬ IsPortAddress (effectiveAddress i s) → ByteStored (effectiveAddress i s) r s t) ∧
    (IsPortAddress (effectiveAddress i s) → ByteStored (effectiveAddress i s) r (loaded i s).2 t ∧
      ∀ b, ¬ IsPortAddress b → peek t b = peek s b))

/-- `t` is `s` after an interrupt is taken through a vector (R410): the return address and the status pushed with B clear
and U set, I set, B and U written live as pushed, PC from the vector, `remaining` set, nothing else changed. -/
def InterruptTaken (vector : Word) (cycles : Nat) (s t : State) : Prop :=
  t.cpu.pc = w16 (peek s vector) (peek s (vector + 1)) ∧ t.cpu.remaining = cycles ∧
  StackPushed [hiByte s.cpu.pc, loByte s.cpu.pc, (s.cpu.p &&& 0xEF) ||| 0x20] s t ∧
  t.flag .i = true ∧ t.flag .b = false ∧ t.flag .u = true ∧ FlagsKept [.i, .b, .u] s t ∧
  RegsKept [.sp, .pc] s t ∧ OthersKept s t

/-! ## Cycles -/

/-- The operations that return 1 to the extra-cycle AND (R159). -/
def operationSignals (i : Instr) : Bool :=
  [.adc, .and, .cmp, .eor, .lda, .ldx, .ldy, .ora, .sbc].contains i.mnemonic

/-- The flag each branch tests and the value it branches on (R261-R268). -/
def branchTest (i : Instr) : Option (Flag × Bool) :=
  ([(.bcc, .c, false), (.bcs, .c, true), (.beq, .z, true), (.bne, .z, false), (.bmi, .n, true), (.bpl, .n, false),
    (.bvc, .v, false), (.bvs, .v, true)] : List (Mnemonic × Flag × Bool)).lookup i.mnemonic

/-- `branch_extra` of R162: 0 for an instruction that is no branch or a branch not taken, else 1, or 2 when the target
lies in another page than the instruction after the branch (R260). -/
def branchExtra (i : Instr) (s : State) : Nat :=
  match branchTest i, i.operand with
  | some (f, v), .rel off =>
    if s.flag f = v then
      if (s.cpu.pc + sext16 off).toNat / 256 = s.cpu.pc.toNat / 256 then 1 else 2
    else 0
  | _, _ => 0

/-- The base cycle counts of R490's table in numbers, for the instructions it lists. -/
def cycleTable (m : Mnemonic) (mode : Mode) : Nat :=
  match m with
  | .adc | .and | .bit | .cmp | .cpx | .cpy | .eor | .lda | .ldx | .ldy | .ora | .sbc =>
    match mode with
    | .imm => 2
    | .zp0 => 3
    | .izy => 5
    | .izx => 6
    | _ => 4
  | .sta | .stx | .sty =>
    match mode with
    | .zp0 => 3
    | .abx | .aby => 5
    | .izx | .izy => 6
    | _ => 4
  | .asl | .lsr | .rol | .ror | .inc | .dec =>
    match mode with
    | .imp => 2
    | .zp0 => 5
    | .abx => 7
    | _ => 6
  | .pha | .php => 3
  | .pla | .plp => 4
  | .jmp => if mode = .ind then 5 else 3
  | .jsr | .rts | .rti => 6
  | .brk => 7
  | .bcc | .bcs | .beq | .bne | .bmi | .bpl | .bvc | .bvs | .clc | .sec | .cli | .sei | .cld | .sed | .clv | .inx | .iny
  | .dex | .dey | .tax | .tay | .txa | .tya | .tsx | .txs | .nop | .xxx => 2

/-- The base cycle count of an instruction by R490: the table's number, and UNDOC_CYCLES for the placeholder. -/
def tableCycles (p : Params) (i : Instr) : Nat :=
  match i with
  | .xxx opcode => undocCycles p opcode
  | _ => cycleTable i.mnemonic i.operand.mode

/-! ## The graphics space in numbers -/

/-- The table a reduced name-table address reaches: its bit 10, or the other table where NAMETABLE_SELECT says so (R99,
log 15). -/
def nameTable (p : Params) (n : Nat) : Nat :=
  if n ∈ p.nametableFlips then 1 - n / 1024 % 2 else n / 1024 % 2

/-- The palette entry of a reduced palette address, four entries being aliases of others (R100). -/
def paletteEntry (n : Nat) : Nat := if n % 32 ∈ [16, 20, 24, 28] then n % 32 - 16 else n % 32

/-- Two graphics addresses that are one byte: after the reduction modulo 16384 (R94), the same address below 0x2000; the
same byte of the same name table in 0x2000-0x3EFF (R99); the same palette entry in 0x3F00-0x3FFF (R100). -/
def SameGraphicsByte (p : Params) (a b : Word) : Prop :=
  let m := a.toNat % 16384
  let n := b.toNat % 16384
  (m < 8192 ∧ n = m) ∨
  (8192 ≤ m ∧ m < 16128 ∧ 8192 ≤ n ∧ n < 16128 ∧ nameTable p m = nameTable p n ∧ m % 1024 = n % 1024) ∨
  (16128 ≤ m ∧ 16128 ≤ n ∧ paletteEntry m = paletteEntry n)

/-- A graphics address in the pattern range of a cartridge with graphics ROM: reads there go to the cartridge, which
declines a write (R89, R90). -/
def InGraphicsRom (s : State) (a : Word) : Prop :=
  a.toNat % 16384 < 8192 ∧ ∃ c, s.cart = some c ∧ c.chrBanks ≠ 0

/-! ## The timer -/

/-- The place of a timer in its frame of 89342 ticks, counted from (-1, 0) (R442). -/
def Timer.position (t : Timer) : Nat := 341 * (t.scanline + 1).toNat + t.cycle

/-! ## What no instruction reads -/

/-- A state with its scratch fields (R34) and the model's free-value counter wiped. -/
def State.withoutScratch (s : State) : State :=
  { s with
    cpu := { s.cpu with opcode := 0, fetched := 0, temp := 0, addrAbs := 0, addrRel := 0 }
    freeCount := 0 }

/-- Two states that differ in scratch fields only. -/
def SameButScratch (s t : State) : Prop := s.withoutScratch = t.withoutScratch

end Sys2Proof.Machine
end

