-- ==== Sys2Proof/Certificates/Slice0/Obligations.lean ====
section
/-! DEFINITION. The statements for the provers. `exec` runs on the state `fetch` leaves: in a statement about `exec`,
`s.cpu.pc` is the address after the instruction's last byte. The frames and results are said with the terms of
Sys2Proof/Safety.lean. Where a statement speaks of Z and N of a result it rests on R180's formula, and where it speaks of
an opcode byte or a base cycle count on the descriptor table's rows: the spec marks both as its own (93 G1, log 16). -/

open Sys2Proof Sys2Proof.Machine

/-! ## Encoding -/

/-- Decoding the bytes of a well-formed instruction, whatever follows them, gives the instruction and what follows, with
every operand at every value (30_encoding.md sections 1 to 4). -/
def Obligations.DecodeOfEncode : Prop :=
  ∀ (i : Instr) (rest : List Byte), i.wellFormed = true → decode (encode i ++ rest) = .ok (i, rest)

/-- What decodes is well formed and encodes to the bytes it was read from: each byte string has one reading. -/
def Obligations.EncodeOfDecode : Prop :=
  ∀ (bytes rest : List Byte) (i : Instr), decode bytes = .ok (i, rest) →
    i.wellFormed = true ∧ encode i ++ rest = bytes

/-- R127: all 256 opcode bytes decode to an instruction, whatever bytes follow; none is refused. -/
def Obligations.EveryOpcodeDecodes : Prop :=
  ∀ (opcode b1 b2 : Byte) (rest : List Byte),
    ∃ i rest', decode (opcode :: b1 :: b2 :: rest) = .ok (i, rest') ∧ opcodeOf i = opcode

/-- The undocumented opcodes are 105; each is one byte long, decodes to the placeholder that carries it, and has the cycle
count UNDOC_CYCLES, which is at least 2 and is 2 by default (30_encoding.md section 3, D14, U8). -/
def Obligations.UndocumentedOpcodes : Prop :=
  ((List.range 256).filter fun n => isUndocumented (BitVec.ofNat 8 n)).length = 105 ∧
  ∀ opcode : Byte, isUndocumented opcode = true →
    (∀ rest, decode (opcode :: rest) = .ok (.xxx opcode, rest)) ∧
    (∀ p, describe p opcode = (.xxx, .imp, undocCycles p opcode) ∧ 2 ≤ undocCycles p opcode) ∧
    undocCycles Params.default opcode = 2

/-- The descriptor table, the encoding lists of the instruction rules and the timing table agree: the descriptor of a
well-formed instruction's opcode has its mnemonic, its mode and its base cycle count, which is the number of the timing
table (`cycleTable`), UNDOC_CYCLES for the placeholder, and at least 2; `exec` starts from that number
(30_encoding.md section 3, 70_reset_and_hazards.md section 5; the counts but BRK's and NOP's are the spec's own, 93 G1,
log 16). -/
def Obligations.DescriptorMatchesEncoding : Prop :=
  ∀ (p : Params) (i : Instr), i.wellFormed = true →
    describe p (opcodeOf i) = (i.mnemonic, i.operand.mode, tableCycles p i) ∧ baseCycles p i = tableCycles p i ∧
    2 ≤ tableCycles p i

/-- A sanity check: words written out from the spec's encodings decode to the instructions they stand for. -/
def Obligations.SpecWordsDecode : Prop :=
  decodeTableWord 16 0x1069 = some (.adc (.imm 0x10)) ∧ decodeTableWord 24 0x12340E = some (.asl (.abs 0x1234)) ∧
  decodeTableWord 16 0xFB90 = some (.bcc 0xFB) ∧ decodeTableWord 24 0x02FF6C = some (.jmp (.ind 0x02FF)) ∧
  decodeTableWord 8 0x00 = some .brk ∧ decodeTableWord 8 0x9A = some .txs ∧
  decodeTableWord 16 0x1091 = some (.sta (.izy 0x10)) ∧ decodeTableWord 16 0x80B6 = some (.ldx (.zpy 0x80)) ∧
  decodeTableWord 8 0xEA = some .nop ∧ decodeTableWord 8 0x02 = some (.xxx 0x02)

/-! ## The step -/

/-- A step runs the decoded instruction: when the bytes at PC, outside the port window, decode to `i` and the machine is
at an instruction boundary, the step is `exec i` at the state with PC past `i`, U set and the opcode recorded, between
the timer ticks of the clock group that come before the CPU tick and those that come after it, with the fetch tick
counted. -/
def Obligations.StepRunsDecodedInstruction : Prop :=
  ∀ (s : State) (i : Instr) (rest : List Byte),
    s.wasReset = true → s.cpu.remaining = 0 →
    (∀ k, k < (encode i).length → ¬ IsPortAddress (s.cpu.pc + BitVec.ofNat 16 k)) →
    decode [peek s s.cpu.pc, peek s (s.cpu.pc + 1), peek s (s.cpu.pc + 2)] = .ok (i, rest) →
    step s = andThen
      (exec i ((((leadingTimerTicks s).setOpcode (opcodeOf i)).setFlag .u true).setPC
        (s.cpu.pc + BitVec.ofNat 16 (encode i).length)))
      (fun t => .next (trailingTimerTicks (countCycle (chargeFetchTick t))))

/-- Wherever PC points, the ports included, a step at a boundary fetches the opcode and the operand bytes, each once and
in address order, PC advancing past each, and runs the instruction they decode to. -/
def Obligations.StepFetchesInOrder : Prop :=
  ∀ s : State, s.wasReset = true → s.cpu.remaining = 0 →
    let u := leadingTimerTicks s
    let r1 := afterRead u s.cpu.pc
    let r2 := afterRead r1 (s.cpu.pc + 1)
    let r3 := afterRead r2 (s.cpu.pc + 2)
    let opcode := peek u s.cpu.pc
    let i := assemble opcode (peek r1 (s.cpu.pc + 1)) (peek r2 (s.cpu.pc + 2))
    let length := 1 + operandCount opcode
    opcodeOf i = opcode ∧ i.wellFormed = true ∧ (encode i).length = length ∧
    step s = andThen
      (exec i ((((if length = 1 then r1 else if length = 2 then r2 else r3).setOpcode opcode).setFlag .u true).setPC
        (s.cpu.pc + BitVec.ofNat 16 length)))
      (fun t => .next (trailingTimerTicks (countCycle (chargeFetchTick t))))

/-- A step in the middle of an instruction first lets it finish: the remaining ticks change nothing but `remaining`, the
cycle total and what three timer ticks each change, and the step then is the step from that boundary
(70_reset_and_hazards.md section 4, 60_exceptions.md section 8). -/
def Obligations.StepFinishesInstructionFirst : Prop :=
  ∀ s : State, s.wasReset = true →
    step s = step (((timerTicks (3 * s.cpu.remaining) s).setRemaining 0).setTotalCycles
      (s.cpu.totalCycles + s.cpu.remaining))

/-- A step of a machine that was reset always completes: it never faults and is never refused. It counts the remaining
ticks and one more, with three timer ticks for each, and leaves the new instruction in progress. Before the first reset
it is refused. -/
def Obligations.StepCompletes : Prop :=
  (∀ s : State, s.wasReset = true →
    ∃ t, step s = .next t ∧ t.wasReset = true ∧ t.params = s.params ∧ 1 ≤ t.cpu.remaining ∧
      t.cpu.totalCycles = s.cpu.totalCycles + s.cpu.remaining + 1 ∧
      t.timer = (timerTicks (3 * (s.cpu.remaining + 1)) s).timer) ∧
  (∀ s : State, s.wasReset = false → step s = .refused .tickBeforeReset)

/-- A step keeps the invariant: memories in canonical form and in bounds, STATUS holding nothing but VB, no aliased
palette entry, a cartridge NROM can map, counters in range. -/
def Obligations.StepKeepsInv : Prop := ∀ s t : State, s.Inv → step s = .next t → t.Inv

/-- The state after reset is power-on with the default parameters and contents and no cartridge, then `reset()`, and it has
the invariant. Three clauses are the model's choice: that no cartridge is loaded (log 2), that the scratch fields, which
the spec leaves unspecified after `reset()`, are the 0 of power-on (log 5), and that the model's own counter of free values
starts at 0 (log 4). -/
def Obligations.ResetState : Prop :=
  hostCall .reset (State.powerOn Params.default [] ⟨[], [], []⟩) = .next State.reset ∧ State.reset.Inv

/-- Every call of the host keeps the invariant. -/
def Obligations.HostCallsKeepInv : Prop :=
  ∀ (c : HostCall) (s t : State), s.Inv → hostCall c s = .next t → t.Inv

/-- `remaining` stays at most 8 under every call of the host (10_state.md section 3), when no UNDOC_CYCLES is more. -/
def Obligations.RemainingStaysBounded : Prop :=
  ∀ (c : HostCall) (s t : State), s.CyclesBounded → hostCall c s = .next t → t.CyclesBounded

/-- No step changes the program ROM, the bank counts, the mapper, or graphics ROM; only graphics RAM can change. -/
def Obligations.StepKeepsCartridge : Prop :=
  ∀ s t : State, step s = .next t →
    (s.cart = none → t.cart = none) ∧
    (∀ c, s.cart = some c → ∃ d, t.cart = some d ∧ d.prg = c.prg ∧ d.prgBanks = c.prgBanks ∧
      d.chrBanks = c.chrBanks ∧ d.mapperId = c.mapperId ∧ (c.chrIsRam = false → d.chr = c.chr))

/-- No step reads what an earlier instruction left in the scratch fields: two states that differ in them only step alike,
to states that differ in them only (10_state.md R34's closing sentence; the free values are among these fields). -/
def Obligations.ScratchIsNeverRead : Prop :=
  ∀ s t : State, SameButScratch s t →
    (step s = .refused .tickBeforeReset ∧ step t = .refused .tickBeforeReset) ∨
    (∃ s' t', step s = .next s' ∧ step t = .next t' ∧ SameButScratch s' t')

/-- The decimal flag changes no result: run with D written either way, an instruction that neither pushes nor writes P as
a whole nor writes D gives the same state but for D, and one that overwrites D gives the very same state. -/
def Obligations.DecimalFlagIsIgnored : Prop :=
  ∀ (i : Instr) (s t : State) (d : Bool), exec i s = .next t →
    (i.mnemonic ∈ [.plp, .rti, .cld, .sed] → exec i (s.setFlag .d d) = .next t) ∧
    (i.mnemonic ∉ [.plp, .rti, .cld, .sed, .php, .brk] → exec i (s.setFlag .d d) = .next (t.setFlag .d d))

/-- The cycle count of an instruction: its base count, which for a well-formed instruction is the number of the timing
table (`cycleTable`; UNDOC_CYCLES for the placeholder), one more when its mode and its operation both signal it, and a
branch's own extra (40_execution_and_addressing.md section 3, 70_reset_and_hazards.md section 5; the numbers are the
spec's own, 93 G1, log 16). -/
def Obligations.InstructionCycleCount : Prop :=
  ∀ (i : Instr) (s : State), ∃ t, exec i s = .next t ∧
    t.cpu.remaining = baseCycles s.params i +
      (if (resolved i s).2 = true ∧ operationSignals i = true then 1 else 0) + branchExtra i s ∧
    (i.wellFormed = true → baseCycles s.params i = tableCycles s.params i)

/-! ## Addresses and operands -/

/-- The effective address of every mode, in numbers, and when the mode signals an extra cycle: zero-page sums wrap in
page 0, absolute sums wrap modulo 65536, pointers are read low byte first inside page 0, and the signal is a change of
page (40_execution_and_addressing.md section 2; the wraps inside page 0 are the spec's own, D5, D6, log 16). -/
def Obligations.EffectiveAddresses : Prop :=
  ∀ (i : Instr) (s : State),
    let ea := (effectiveAddress i s).toNat
    let crosses := (resolved i s).2
    match i.operand with
    | .imp | .rel _ => crosses = false
    | .imm _ => ea = (s.cpu.pc.toNat + 65535) % 65536 ∧ crosses = false
    | .zp0 z => ea = z.toNat ∧ crosses = false
    | .zpx z => ea = (z.toNat + s.cpu.x.toNat) % 256 ∧ crosses = false
    | .zpy z => ea = (z.toNat + s.cpu.y.toNat) % 256 ∧ crosses = false
    | .abs w => ea = w.toNat ∧ crosses = false
    | .abx w => ea = (w.toNat + s.cpu.x.toNat) % 65536 ∧ (crosses = true ↔ ea / 256 ≠ w.toNat / 256)
    | .aby w => ea = (w.toNat + s.cpu.y.toNat) % 65536 ∧ (crosses = true ↔ ea / 256 ≠ w.toNat / 256)
    | .ind w =>
      ea = (peek s w).toNat + 256 * (peek (afterRead s w)
        (if w.toNat % 256 = 255 then BitVec.ofNat 16 (w.toNat - 255) else w + 1)).toNat ∧ crosses = false
    | .izx z => ea = zeroPagePointer s (z.toNat + s.cpu.x.toNat) ∧ crosses = false
    | .izy z =>
      ea = (zeroPagePointer s z.toNat + s.cpu.y.toNat) % 65536 ∧
        (crosses = true ↔ ea / 256 ≠ zeroPagePointer s z.toNat / 256)

/-- The operand of an instruction: A in mode IMP, the instruction's own byte in mode IMM, else the one byte at the
effective address, whose read has the side effects of its target; the register file changes in no other way
(40_execution_and_addressing.md section 1; what mode IMP means and one access per address are the spec's own, D44, D45,
log 16). That in mode IMM the byte is the fetched one and loading it leaves the register file is the model's choice
(log 6): the fetch has read it already. Branches and JMP through a pointer have no operand. -/
def Obligations.OperandValues : Prop :=
  ∀ (i : Instr) (s : State),
    (i.operand.mode ≠ .ind → (resolved i s).1.gfx = s.gfx) ∧
    (i.operand = .imp → operandValue i s = s.cpu.a ∧ (loaded i s).2.gfx = s.gfx) ∧
    (∀ n, i.operand = .imm n → operandValue i s = n ∧ (loaded i s).2.gfx = s.gfx) ∧
    (i.operand.mode ∉ [.imp, .imm, .rel, .ind] →
      operandValue i s = peek s (effectiveAddress i s) ∧
      (loaded i s).2.gfx = (afterRead s (effectiveAddress i s)).gfx)

/-! ## The bus -/

/-- R64: an address in 0x0000-0x1FFF reads or writes the RAM byte at its low eleven bits and does nothing else: after a
write that byte reads as written through every alias, and every other address as before. -/
def Obligations.RamIsMirrored : Prop :=
  ∀ (s : State) (a : Word), a.toNat ≤ 0x1FFF →
    memRead s a = (Memory.read s.ram (a &&& 0x07FF).toNat, s) ∧
    ∀ v, memWrite s a v = s.setRam (Memory.write s.ram (a &&& 0x07FF).toNat v) ∧
      (Memory.wf s.ram → ∀ b : Word,
        peek (memWrite s a v) b =
          if b.toNat ≤ 0x1FFF ∧ b &&& 0x07FF = a &&& 0x07FF then v else peek s b)

/-- Every address the cartridge, RAM and the ports do not take is open bus: a read gives 0, a write changes nothing
(20_memory.md section 1). With a cartridge that is 0x4000-0x7FFF. With none it is 0x4000-0xFFFF, which is the model's
reading (log 3): the spec says it of the reset vector's reads alone (70_reset_and_hazards.md section 2). -/
def Obligations.OpenBus : Prop :=
  ∀ (s : State) (a : Word) (v : Byte), 0x4000 ≤ a.toNat → (s.cart = none ∨ a.toNat ≤ 0x7FFF) →
    memRead s a = (0x00, s) ∧ memWrite s a v = s

/-- NROM maps a CPU address at or above 0x8000 into the program array masked by 0x7FFF if there is more than one bank,
else by 0x3FFF, and no lower address; the read has no side effect and its offset is inside the array (20_memory.md
sections 2 and 6; that the read has no side effect, and the bounds, the spec derives from its other rules). -/
def Obligations.ProgramRomReads : Prop :=
  ∀ (s : State) (c : Cartridge), s.cart = some c →
    (∀ a : Word, 0x8000 ≤ a.toNat →
      memRead s a = (Memory.read c.prg (a &&& (if 1 < c.prgBanks.toNat then 0x7FFF else 0x3FFF)).toNat, s)) ∧
    (∀ a : Word, a.toNat < 0x8000 → nromCpuMap c a = none) ∧
    (c.prgBanks = 1 → nromCpuMap c 0x8000 = some 0 ∧ nromCpuMap c 0xC000 = some 0) ∧
    (c.prgBanks = 2 → nromCpuMap c 0x8000 = some 0 ∧ nromCpuMap c 0xC000 = some 0x4000) ∧
    (∀ (a : Word) (k : Nat), nromCpuMap c a = some k → k < 32768 ∧ (c.Inv → k < 16384 * c.prgBanks.toNat))

/-- A write at or above 0x8000 is discarded, and a read has a side effect only at a STATUS or PPU-DATA port: nothing but
ports 2 and 7 of the window changes when read (20_memory.md sections 2 and 6). A read of port 0, 1, 3, 4, 5 or 6 gives 0
and a write to port 2, 3, 4 or 5 changes nothing (60_exceptions.md section 6; the spec's own, D16, log 16). -/
def Obligations.SideEffectsOfAccesses : Prop :=
  ∀ (s : State) (a : Word),
    (¬ (IsPortAddress a ∧ (a.toNat % 8 = 2 ∨ a.toNat % 8 = 7)) → afterRead s a = s) ∧
    (∀ v, 0x8000 ≤ a.toNat → memWrite s a v = s) ∧
    (IsPortAddress a → a.toNat % 8 ∈ [0, 1, 3, 4, 5, 6] → memRead s a = (0x00, s)) ∧
    (∀ v, IsPortAddress a → a.toNat % 8 ∈ [2, 3, 4, 5] → memWrite s a v = s)

/-! ## Arithmetic and logic -/

/-- R181: the overflow formula is 1 exactly when the accumulator and the addend have the same sign bit and the result
has the other. For the result of an addition that is exactly when the signed sum leaves -128..127 (the second clause is
the model's consequence, not the rule's words). -/
def Obligations.OverflowFormula : Prop :=
  (∀ a m r : Byte, overflow a m r = (~~~(a ^^^ m) &&& (a ^^^ r)).getLsbD 7 ∧
    (overflow a m r = true ↔ a.msb = m.msb ∧ r.msb ≠ a.msb)) ∧
  (∀ (a m : Byte) (c : Bool), overflow a m (addResult a m c) = true ↔
    ¬ (-128 ≤ a.toInt + m.toInt + (c.toNat : Int) ∧ a.toInt + m.toInt + (c.toNat : Int) ≤ 127))

/-- ADC: A is the sum of A, the operand and C modulo 256, C says whether the sum passed 255, V follows the overflow
formula, Z and N the result; D is not read (DecimalFlagIsIgnored); nothing else changes but what the operand's read
changes (41_arithmetic_logical.md section 2). -/
def Obligations.AddWithCarry : Prop :=
  ∀ (f : AluForm) (s : State), ∃ t, exec (.adc f) s = .next t ∧
    (let m := operandValue (.adc f) s
     let sum := s.cpu.a.toNat + m.toNat + flagNat s .c
     t.cpu.a.toNat = sum % 256 ∧ (t.flag .c = true ↔ 255 < sum) ∧
     (t.flag .v = true ↔ s.cpu.a.msb = m.msb ∧ t.cpu.a.msb ≠ s.cpu.a.msb)) ∧
    ZeroNegativeOf t.cpu.a t ∧ RegsKept [.a] s t ∧ FlagsKept [.c, .z, .v, .n] s t ∧ ReadFrame (.adc f) s t

/-- SBC: A is A - m - (1 - C) modulo 256, C is 1 exactly when no borrow was needed, V exactly when the signed difference
leaves -128..127, Z and N follow the result; nothing else changes but what the operand's read changes
(41_arithmetic_logical.md section 2; computing it as ADC of the complement is the spec's own, 93 G4, log 16). -/
def Obligations.SubtractWithCarry : Prop :=
  ∀ (f : AluForm) (s : State), ∃ t, exec (.sbc f) s = .next t ∧
    (let m := operandValue (.sbc f) s
     let borrow := 1 - flagNat s .c
     t.cpu.a.toNat = (256 + s.cpu.a.toNat - m.toNat - borrow) % 256 ∧
     (t.flag .c = true ↔ m.toNat + borrow ≤ s.cpu.a.toNat) ∧
     (t.flag .v = true ↔ ¬ (-128 ≤ s.cpu.a.toInt - m.toInt - (borrow : Int) ∧
       s.cpu.a.toInt - m.toInt - (borrow : Int) ≤ 127))) ∧
    ZeroNegativeOf t.cpu.a t ∧ RegsKept [.a] s t ∧ FlagsKept [.c, .z, .v, .n] s t ∧ ReadFrame (.sbc f) s t

/-- AND, ORA and EOR: A is the bitwise result, Z and N follow it, C and V and everything else stay but for what the
operand's read changes (41_arithmetic_logical.md section 3). -/
def Obligations.LogicalInstructions : Prop :=
  ∀ (f : AluForm) (s : State),
    (∃ t, exec (.and f) s = .next t ∧ t.cpu.a = s.cpu.a &&& operandValue (.and f) s ∧ ZeroNegativeOf t.cpu.a t ∧
      RegsKept [.a] s t ∧ FlagsKept [.z, .n] s t ∧ ReadFrame (.and f) s t) ∧
    (∃ t, exec (.ora f) s = .next t ∧ t.cpu.a = s.cpu.a ||| operandValue (.ora f) s ∧ ZeroNegativeOf t.cpu.a t ∧
      RegsKept [.a] s t ∧ FlagsKept [.z, .n] s t ∧ ReadFrame (.ora f) s t) ∧
    (∃ t, exec (.eor f) s = .next t ∧ t.cpu.a = s.cpu.a ^^^ operandValue (.eor f) s ∧ ZeroNegativeOf t.cpu.a t ∧
      RegsKept [.a] s t ∧ FlagsKept [.z, .n] s t ∧ ReadFrame (.eor f) s t)

/-- BIT: Z is A AND m being 0, N is bit 7 of m, V is bit 6; A and every register stay
(41_arithmetic_logical.md section 3; the spec's own, 93 G5, log 16). -/
def Obligations.BitTest : Prop :=
  ∀ (f : BitForm) (s : State), ∃ t, exec (.bit f) s = .next t ∧
    (let m := operandValue (.bit f) s
     (t.flag .z = true ↔ s.cpu.a &&& m = 0) ∧ (t.flag .n = true ↔ 128 ≤ m.toNat) ∧
     (t.flag .v = true ↔ 64 ≤ m.toNat % 128)) ∧
    RegsKept [] s t ∧ FlagsKept [.z, .n, .v] s t ∧ ReadFrame (.bit f) s t

/-! ## Shifts, increments, compares -/

/-- ASL, LSR, ROL and ROR, on A in mode IMP and on memory in the others: the result, C the bit shifted out, Z and N from
the result, one write to the place the operand came from (42_shift_incdec_compare.md section 1; which bit enters and
leaves is the spec's own, 93 G7, log 16). -/
def Obligations.ShiftsAndRotates : Prop :=
  ∀ (f : ShiftForm) (s : State), Memory.wf s.ram →
    (∃ t, exec (.asl f) s = .next t ∧ (t.flag .c = true ↔ 128 ≤ (operandValue (.asl f) s).toNat) ∧
      ModifiesTo (.asl f) (BitVec.ofNat 8 (2 * (operandValue (.asl f) s).toNat)) [.c, .z, .n] s t) ∧
    (∃ t, exec (.lsr f) s = .next t ∧ (t.flag .c = true ↔ (operandValue (.lsr f) s).toNat % 2 = 1) ∧
      ModifiesTo (.lsr f) (BitVec.ofNat 8 ((operandValue (.lsr f) s).toNat / 2)) [.c, .z, .n] s t) ∧
    (∃ t, exec (.rol f) s = .next t ∧ (t.flag .c = true ↔ 128 ≤ (operandValue (.rol f) s).toNat) ∧
      ModifiesTo (.rol f) (BitVec.ofNat 8 (2 * (operandValue (.rol f) s).toNat + flagNat s .c)) [.c, .z, .n] s t) ∧
    (∃ t, exec (.ror f) s = .next t ∧ (t.flag .c = true ↔ (operandValue (.ror f) s).toNat % 2 = 1) ∧
      ModifiesTo (.ror f) (BitVec.ofNat 8 ((operandValue (.ror f) s).toNat / 2 + 128 * flagNat s .c)) [.c, .z, .n]
        s t)

/-- INC and DEC: the byte at the effective address goes up or down by 1 modulo 256, Z and N follow it, C and V stay
(42_shift_incdec_compare.md section 2). -/
def Obligations.MemoryIncrements : Prop :=
  ∀ (f : IncForm) (s : State), Memory.wf s.ram →
    (∃ t, exec (.inc f) s = .next t ∧
      ModifiesTo (.inc f) (BitVec.ofNat 8 ((operandValue (.inc f) s).toNat + 1)) [.z, .n] s t) ∧
    (∃ t, exec (.dec f) s = .next t ∧
      ModifiesTo (.dec f) (BitVec.ofNat 8 ((operandValue (.dec f) s).toNat + 255)) [.z, .n] s t)

/-- R226 to R229: INX, INY, DEX, DEY change their register by 1 modulo 256 and write Z and N as SetZN of the new value
does, with the corner cases and examples of the rules; they are one-byte instructions with opcodes 0xE8, 0xC8, 0xCA,
0x88 and pay no extra cycle on their base count (its number is in DescriptorMatchesEncoding); no other register or flag and
no memory changes. -/
def Obligations.IndexIncrements : Prop :=
  encode .inx = [0xE8] ∧ encode .iny = [0xC8] ∧ encode .dex = [0xCA] ∧ encode .dey = [0x88] ∧
  ∀ s : State,
    (∃ t, exec .inx s = .next t ∧ t.cpu.remaining = baseCycles s.params .inx ∧
      t.cpu.x.toNat = (s.cpu.x.toNat + 1) % 256 ∧ t.cpu.p = znFlags s.cpu.p t.cpu.x ∧
      (s.cpu.x = 0xFF → t.cpu.x = 0x00 ∧ t.flag .z = true) ∧ (s.cpu.x = 0x7F → t.cpu.x = 0x80 ∧ t.flag .n = true) ∧
      RegsKept [.x] s t ∧ FlagsKept [.z, .n] s t ∧ MemoryKept s t ∧ OthersKept s t) ∧
    (∃ t, exec .iny s = .next t ∧ t.cpu.remaining = baseCycles s.params .iny ∧
      t.cpu.y.toNat = (s.cpu.y.toNat + 1) % 256 ∧ t.cpu.p = znFlags s.cpu.p t.cpu.y ∧
      (s.cpu.y = 0xFF → t.cpu.y = 0x00 ∧ t.flag .z = true) ∧ (s.cpu.y = 0x00 → t.cpu.y = 0x01) ∧
      RegsKept [.y] s t ∧ FlagsKept [.z, .n] s t ∧ MemoryKept s t ∧ OthersKept s t) ∧
    (∃ t, exec .dex s = .next t ∧ t.cpu.remaining = baseCycles s.params .dex ∧
      t.cpu.x.toNat = (s.cpu.x.toNat + 255) % 256 ∧ t.cpu.p = znFlags s.cpu.p t.cpu.x ∧
      (s.cpu.x = 0x00 → t.cpu.x = 0xFF ∧ t.flag .n = true) ∧ (s.cpu.x = 0x01 → t.cpu.x = 0x00 ∧ t.flag .z = true) ∧
      RegsKept [.x] s t ∧ FlagsKept [.z, .n] s t ∧ MemoryKept s t ∧ OthersKept s t) ∧
    (∃ t, exec .dey s = .next t ∧ t.cpu.remaining = baseCycles s.params .dey ∧
      t.cpu.y.toNat = (s.cpu.y.toNat + 255) % 256 ∧ t.cpu.p = znFlags s.cpu.p t.cpu.y ∧
      (s.cpu.y = 0x00 → t.cpu.y = 0xFF ∧ t.flag .n = true) ∧ (s.cpu.y = 0x80 → t.cpu.y = 0x7F ∧ t.flag .n = false) ∧
      RegsKept [.y] s t ∧ FlagsKept [.z, .n] s t ∧ MemoryKept s t ∧ OthersKept s t)

/-- CMP, CPX and CPY: C is 1 exactly when the register is at least the operand, Z when they are equal, N is bit 7 of the
difference; V and every register stay (42_shift_incdec_compare.md section 3). -/
def Obligations.Compares : Prop :=
  (∀ (f : AluForm) (s : State), ∃ t, exec (.cmp f) s = .next t ∧
    (let m := operandValue (.cmp f) s
     (t.flag .c = true ↔ m.toNat ≤ s.cpu.a.toNat) ∧ (t.flag .z = true ↔ s.cpu.a = m) ∧
     (t.flag .n = true ↔ 128 ≤ (256 + s.cpu.a.toNat - m.toNat) % 256)) ∧
    RegsKept [] s t ∧ FlagsKept [.c, .z, .n] s t ∧ ReadFrame (.cmp f) s t) ∧
  (∀ (f : IndexCompareForm) (s : State),
    (∃ t, exec (.cpx f) s = .next t ∧
      (let m := operandValue (.cpx f) s
       (t.flag .c = true ↔ m.toNat ≤ s.cpu.x.toNat) ∧ (t.flag .z = true ↔ s.cpu.x = m) ∧
       (t.flag .n = true ↔ 128 ≤ (256 + s.cpu.x.toNat - m.toNat) % 256)) ∧
      RegsKept [] s t ∧ FlagsKept [.c, .z, .n] s t ∧ ReadFrame (.cpx f) s t) ∧
    (∃ t, exec (.cpy f) s = .next t ∧
      (let m := operandValue (.cpy f) s
       (t.flag .c = true ↔ m.toNat ≤ s.cpu.y.toNat) ∧ (t.flag .z = true ↔ s.cpu.y = m) ∧
       (t.flag .n = true ↔ 128 ≤ (256 + s.cpu.y.toNat - m.toNat) % 256)) ∧
      RegsKept [] s t ∧ FlagsKept [.c, .z, .n] s t ∧ ReadFrame (.cpy f) s t))

/-! ## Branches, stack, control -/

/-- The eight branches: each tests one flag; taken, PC moves by the signed offset modulo 65536 and the branch costs 1
cycle more, 2 when the target is in another page; not taken, PC and the count stay. No flag, no other register and no
memory changes (43_branch_stack_control.md section 1; the tests are the spec's own, 93 G8, log 16). -/
def Obligations.Branches : Prop :=
  ∀ (off : Byte) (s : State),
    ∀ b ∈ ([(.bcc off, .c, false), (.bcs off, .c, true), (.beq off, .z, true), (.bne off, .z, false),
      (.bmi off, .n, true), (.bpl off, .n, false), (.bvc off, .v, false), (.bvs off, .v, true)] :
      List (Instr × Flag × Bool)),
    ∃ t, exec b.1 s = .next t ∧
      (s.flag b.2.1 = b.2.2 →
        (t.cpu.pc.toNat : Int) = ((s.cpu.pc.toNat : Int) + off.toInt) % 65536 ∧
        t.cpu.remaining = 2 + (if t.cpu.pc.toNat / 256 = s.cpu.pc.toNat / 256 then 1 else 2)) ∧
      (s.flag b.2.1 ≠ b.2.2 → t.cpu.pc = s.cpu.pc ∧ t.cpu.remaining = 2) ∧
      RegsKept [.pc] s t ∧ FlagsKept [] s t ∧ MemoryKept s t ∧ OthersKept s t

/-- PHA pushes A; PHP pushes P with B and U set and leaves P as it is; SP goes down by 1 modulo 256. PLA pulls A and sets Z
and N from it; PLP pulls all of P; SP goes up by 1 modulo 256 and no memory changes. Nothing else changes
(43_branch_stack_control.md section 2; the stack page, the pushed B and U and what PLP loads are the spec's own, D8, D10,
D11, log 16). -/
def Obligations.StackInstructions : Prop :=
  ∀ s : State,
    (Memory.wf s.ram → ∃ t, exec .pha s = .next t ∧ StackPushed [s.cpu.a] s t ∧ RegsKept [.sp] s t ∧
      FlagsKept [] s t ∧ OthersKept s t) ∧
    (Memory.wf s.ram → ∃ t, exec .php s = .next t ∧ StackPushed [s.cpu.p ||| 0x30] s t ∧ RegsKept [.sp] s t ∧
      FlagsKept [] s t ∧ OthersKept s t) ∧
    (∃ t, exec .pla s = .next t ∧ t.cpu.a = peek s (stackAddress (s.cpu.sp + 1)) ∧
      t.cpu.sp = s.cpu.sp + 1 ∧ ZeroNegativeOf t.cpu.a t ∧
      RegsKept [.a, .sp] s t ∧ FlagsKept [.z, .n] s t ∧ MemoryKept s t ∧ OthersKept s t) ∧
    (∃ t, exec .plp s = .next t ∧ t.cpu.p = peek s (stackAddress (s.cpu.sp + 1)) ∧
      t.cpu.sp = s.cpu.sp + 1 ∧ RegsKept [.sp] s t ∧
      MemoryKept s t ∧ OthersKept s t)

/-- JMP: PC is the operand, or, through a pointer, the two bytes at the pointer, low byte first, the high byte from the
start of the pointer's own page when the pointer's low byte is 0xFF. No flag, no other register and no byte outside the
port window changes; the register file changes as the two pointer reads change it (43_branch_stack_control.md section 3,
40_execution_and_addressing.md section 2). -/
def Obligations.Jumps : Prop :=
  ∀ (w : Word) (s : State),
    (∃ t, exec (.jmp (.abs w)) s = .next t ∧ t.cpu.pc = w ∧ RegsKept [.pc] s t ∧ FlagsKept [] s t ∧ MemoryKept s t ∧
      OthersKept s t) ∧
    (let next := if w.toNat % 256 = 255 then BitVec.ofNat 16 (w.toNat - 255) else w + 1
     ∃ t, exec (.jmp (.ind w)) s = .next t ∧
      t.cpu.pc.toNat = (peek s w).toNat + 256 * (peek (afterRead s w) next).toNat ∧
      RegsKept [.pc] s t ∧ FlagsKept [] s t ∧ BytesKept s t ∧ t.gfx = (afterRead (afterRead s w) next).gfx ∧
      OthersKept s t)

/-- JSR pushes the address of its own last byte, high byte first, and goes to its target; nothing else changes
(43_branch_stack_control.md section 3; the push order is the spec's own, 93 G10, log 16). -/
def Obligations.Call : Prop :=
  ∀ (w : Word) (s : State), Memory.wf s.ram →
    ∃ t, exec (.jsr w) s = .next t ∧ t.cpu.pc = w ∧
      StackPushed [hiByte (s.cpu.pc - 1), loByte (s.cpu.pc - 1)] s t ∧
      RegsKept [.sp, .pc] s t ∧ FlagsKept [] s t ∧ OthersKept s t

/-- RTS pulls a 16-bit address, low byte first, and goes to the address after it. RTI pulls P, with B and U cleared, then
PC. SP goes up by 2 and 3 modulo 256; no memory changes (43_branch_stack_control.md section 3; the pull order is the
spec's inference from the pushes, log 16). -/
def Obligations.Returns : Prop :=
  ∀ s : State,
    (∃ t, exec .rts s = .next t ∧ t.cpu.sp = s.cpu.sp + 2 ∧
      t.cpu.pc = w16 (peek s (stackAddress (s.cpu.sp + 1))) (peek s (stackAddress (s.cpu.sp + 2))) + 1 ∧
      RegsKept [.sp, .pc] s t ∧ FlagsKept [] s t ∧ MemoryKept s t ∧ OthersKept s t) ∧
    (∃ t, exec .rti s = .next t ∧ t.cpu.sp = s.cpu.sp + 3 ∧
      t.cpu.pc = w16 (peek s (stackAddress (s.cpu.sp + 2))) (peek s (stackAddress (s.cpu.sp + 3))) ∧
      t.cpu.p = peek s (stackAddress (s.cpu.sp + 1)) &&& 0xCF ∧ RegsKept [.sp, .pc] s t ∧ MemoryKept s t ∧ OthersKept s t)

/-- BRK skips the byte after its opcode, pushes that address high byte first and then P with B and U set, sets I, and goes
through the vector at 0xFFFE, whatever I is; the live P changes in I only (43_branch_stack_control.md section 3; all of it
but the cycle count is the spec's own, 93 G10, log 16). -/
def Obligations.SoftwareInterrupt : Prop :=
  ∀ s : State, Memory.wf s.ram →
    ∃ t, exec .brk s = .next t ∧ t.cpu.pc = w16 (peek s 0xFFFE) (peek s 0xFFFF) ∧
      StackPushed [hiByte (s.cpu.pc + 1), loByte (s.cpu.pc + 1), s.cpu.p ||| 0x30] s t ∧
      t.flag .i = true ∧ FlagsKept [.i] s t ∧ RegsKept [.sp, .pc] s t ∧ OthersKept s t

/-- Whatever a subroutine or a handler does, if it leaves SP and the stack page as its entry left them it returns: RTS to
the instruction after the JSR; RTI, after `nmi` or a taken `irq`, to the interrupted instruction, and after BRK to the
second byte after its opcode, with SP as before and every flag as before the entry but B and U, which are clear. It holds
wherever the stack wraps (43_branch_stack_control.md section 3, 60_exceptions.md section 4; BRK and the status bytes pushed
are the spec's own, D9, D12, log 16). -/
def Obligations.ReturnUndoesEntry : Prop :=
  ∀ s t u : State, Memory.wf s.ram → u.cpu.sp = t.cpu.sp → SameStackPage t u →
    (∀ w, exec (.jsr w) s = .next t →
      ∃ v, exec .rts u = .next v ∧ v.cpu.pc = s.cpu.pc ∧ v.cpu.sp = s.cpu.sp) ∧
    ((irq s = .next t ∧ s.flag .i = false) ∨ nmi s = .next t →
      ∃ v, exec .rti u = .next v ∧ v.cpu.pc = s.cpu.pc ∧ v.cpu.sp = s.cpu.sp ∧ v.cpu.p = s.cpu.p &&& 0xCF) ∧
    (exec .brk s = .next t →
      ∃ v, exec .rti u = .next v ∧ v.cpu.pc = s.cpu.pc + 1 ∧ v.cpu.sp = s.cpu.sp ∧ v.cpu.p = s.cpu.p &&& 0xCF)

/-! ## Flags, transfers, loads, stores -/

/-- The seven flag instructions write their one flag and change no other flag, no register and no memory
(44_flags_transfer_loadstore.md section 1; the spec's own, 93 G9, log 16). -/
def Obligations.FlagInstructions : Prop :=
  ∀ s : State,
    ∀ b ∈ ([(.clc, .c, false), (.sec, .c, true), (.cli, .i, false), (.sei, .i, true), (.cld, .d, false),
      (.sed, .d, true), (.clv, .v, false)] : List (Instr × Flag × Bool)),
    ∃ t, exec b.1 s = .next t ∧ t.flag b.2.1 = b.2.2 ∧ FlagsKept [b.2.1] s t ∧ RegsKept [] s t ∧ MemoryKept s t ∧
      OthersKept s t

/-- The six register transfers: the destination takes the source, Z and N follow it, but for TXS, which writes no flag
(44_flags_transfer_loadstore.md section 2; the spec's own, 93 G9, log 16). -/
def Obligations.Transfers : Prop :=
  ∀ s : State,
    (∃ t, exec .tax s = .next t ∧ t.cpu.x = s.cpu.a ∧ ZeroNegativeOf s.cpu.a t ∧ RegsKept [.x] s t ∧
      FlagsKept [.z, .n] s t ∧ MemoryKept s t ∧ OthersKept s t) ∧
    (∃ t, exec .tay s = .next t ∧ t.cpu.y = s.cpu.a ∧ ZeroNegativeOf s.cpu.a t ∧ RegsKept [.y] s t ∧
      FlagsKept [.z, .n] s t ∧ MemoryKept s t ∧ OthersKept s t) ∧
    (∃ t, exec .txa s = .next t ∧ t.cpu.a = s.cpu.x ∧ ZeroNegativeOf s.cpu.x t ∧ RegsKept [.a] s t ∧
      FlagsKept [.z, .n] s t ∧ MemoryKept s t ∧ OthersKept s t) ∧
    (∃ t, exec .tya s = .next t ∧ t.cpu.a = s.cpu.y ∧ ZeroNegativeOf s.cpu.y t ∧ RegsKept [.a] s t ∧
      FlagsKept [.z, .n] s t ∧ MemoryKept s t ∧ OthersKept s t) ∧
    (∃ t, exec .tsx s = .next t ∧ t.cpu.x = s.cpu.sp ∧ ZeroNegativeOf s.cpu.sp t ∧ RegsKept [.x] s t ∧
      FlagsKept [.z, .n] s t ∧ MemoryKept s t ∧ OthersKept s t) ∧
    (∃ t, exec .txs s = .next t ∧ t.cpu.sp = s.cpu.x ∧ RegsKept [.sp] s t ∧ FlagsKept [] s t ∧ MemoryKept s t ∧
      OthersKept s t)

/-- LDA, LDX and LDY: the register takes the operand, Z and N follow it; nothing else changes but what the operand's read
changes (44_flags_transfer_loadstore.md section 3; the spec's own, 93 G9, log 16). -/
def Obligations.Loads : Prop :=
  (∀ (f : AluForm) (s : State), ∃ t, exec (.lda f) s = .next t ∧ t.cpu.a = operandValue (.lda f) s ∧
    ZeroNegativeOf t.cpu.a t ∧ RegsKept [.a] s t ∧ FlagsKept [.z, .n] s t ∧ ReadFrame (.lda f) s t) ∧
  (∀ (f : LdxForm) (s : State), ∃ t, exec (.ldx f) s = .next t ∧ t.cpu.x = operandValue (.ldx f) s ∧
    ZeroNegativeOf t.cpu.x t ∧ RegsKept [.x] s t ∧ FlagsKept [.z, .n] s t ∧ ReadFrame (.ldx f) s t) ∧
  (∀ (f : LdyForm) (s : State), ∃ t, exec (.ldy f) s = .next t ∧ t.cpu.y = operandValue (.ldy f) s ∧
    ZeroNegativeOf t.cpu.y t ∧ RegsKept [.y] s t ∧ FlagsKept [.z, .n] s t ∧ ReadFrame (.ldy f) s t)

/-- STA, STX and STY store their register's byte at the effective address, which they do not read; no flag and no register
changes (44_flags_transfer_loadstore.md section 4; the spec's own, 93 G9, log 16). -/
def Obligations.Stores : Prop :=
  (∀ (f : StaForm) (s : State), Memory.wf s.ram → ∃ t, exec (.sta f) s = .next t ∧
    ByteStored (effectiveAddress (.sta f) s) s.cpu.a s t ∧ RegsKept [] s t ∧ FlagsKept [] s t ∧ OthersKept s t) ∧
  (∀ (f : StxForm) (s : State), Memory.wf s.ram → ∃ t, exec (.stx f) s = .next t ∧
    ByteStored (effectiveAddress (.stx f) s) s.cpu.x s t ∧ RegsKept [] s t ∧ FlagsKept [] s t ∧ OthersKept s t) ∧
  (∀ (f : StyForm) (s : State), Memory.wf s.ram → ∃ t, exec (.sty f) s = .next t ∧
    ByteStored (effectiveAddress (.sty f) s) s.cpu.y s t ∧ RegsKept [] s t ∧ FlagsKept [] s t ∧ OthersKept s t)

/-- NOP and the placeholder change nothing at all, the scratch fields included, but the cycle bookkeeping: they set
`remaining` to 2 and to UNDOC_CYCLES (44_flags_transfer_loadstore.md section 5). -/
def Obligations.NoOperations : Prop :=
  (∀ s : State, exec .nop s = .next (s.setRemaining 2)) ∧
  (∀ (opcode : Byte) (s : State), ∃ n, exec (.xxx opcode) s = .next (s.setRemaining n) ∧
    (isUndocumented opcode = true → n = undocCycles s.params opcode))

/-! ## Interrupts and reset -/

/-- `irq` with I clear and `nmi`, at an instruction boundary: PC pushed high byte first, then P with B clear and U set and
I as before; I set; PC from the vector; `remaining` 7 and 8. The live P keeps B clear and U set; no other register,
nothing of the graphics side and no other byte changes (60_exceptions.md section 3; the live B and U, the pushed I and
NMI's I are the spec's own, D12, log 16). -/
def Obligations.InterruptEntry : Prop :=
  ∀ s : State, Memory.wf s.ram → s.cpu.remaining = 0 →
    (s.flag .i = false → ∃ t, irq s = .next t ∧ InterruptTaken 0xFFFE 7 s t) ∧
    (∃ t, nmi s = .next t ∧ InterruptTaken 0xFFFA 8 s t)

/-- A masked `irq` at a boundary changes nothing; an `irq` or `nmi` while an instruction is in progress is refused
(60_exceptions.md sections 2 and 3; the boundary is the spec's own, D13, log 16). -/
def Obligations.InterruptsMaskedOrRefused : Prop :=
  ∀ s : State,
    (s.cpu.remaining = 0 → s.flag .i = true → irq s = .next s) ∧
    (s.cpu.remaining ≠ 0 → irq s = .refused .interruptMidInstruction ∧ nmi s = .refused .interruptMidInstruction)

/-- `reset()`: PC is the word at 0xFFFC, P the byte at 0xFFFC, A, X and Y are 0, SP is 0xFD, `remaining` is 0; the cycle
total, RAM, the cartridge, the graphics side and the timer stay as they were; ticks are admitted
(70_reset_and_hazards.md section 2; the status formula and the extent are the spec's own, D40, D35, log 16). -/
def Obligations.ResetEffect : Prop :=
  ∀ s : State, ∃ t, hostCall .reset s = .next t ∧
    t.cpu.pc = w16 (peek s 0xFFFC) (peek s 0xFFFD) ∧ t.cpu.p = peek s 0xFFFC ∧
    t.cpu.a = 0 ∧ t.cpu.x = 0 ∧ t.cpu.y = 0 ∧ t.cpu.sp = 0xFD ∧ t.cpu.remaining = 0 ∧
    t.cpu.totalCycles = s.cpu.totalCycles ∧ t.ram = s.ram ∧ t.cart = s.cart ∧ t.gfx = s.gfx ∧ t.timer = s.timer ∧
    t.params = s.params ∧ t.wasReset = true

/-! ## The cartridge -/

/-- A load succeeds exactly for an image of a known length with a program bank, mapper identifier 0 and, where it is
validated, the signature; else it faults, for a reason the image has (20_memory.md section 5; identifier 0 and the bank
count are the spec's own, D24, D25, log 16; the order of reasons is log 9). -/
def Obligations.CartridgeLoadAccepts : Prop :=
  ∀ (image : List Byte) (s : State),
    let byte := fun k => image.getD k 0
    let length := 16 + (if byte 6 &&& s.params.trainerMask ≠ 0 then 512 else 0) + 16384 * (byte 4).toNat +
      8192 * (byte 5).toNat
    let magic := (byte 0, byte 1, byte 2, byte 3) = s.params.magic
    ((∃ t, hostCall (.loadCartridge image) s = .next t) ↔
      image.length = length ∧ byte 4 ≠ 0 ∧ (byte 6).toNat / 16 = 0 ∧ (byte 7).toNat / 16 = 0 ∧
      (s.params.validateMagic = true → magic)) ∧
    (∀ r, hostCall (.loadCartridge image) s = .fault r →
      (r = .noProgramBank → byte 4 = 0) ∧ (r = .lengthMismatch → image.length ≠ length) ∧
      (r = .unsupportedMapper → (byte 6).toNat / 16 ≠ 0 ∨ (byte 7).toNat / 16 ≠ 0) ∧
      (r = .badMagic → s.params.validateMagic = true ∧ ¬ magic)) ∧
    (∀ r, hostCall (.loadCartridge image) s ≠ .refused r)

/-- A loaded cartridge holds the image's bytes: after the header and the trainer the program array and then the graphics
array, or 8192 bytes of graphics RAM that read 0; nothing else of the machine changes (20_memory.md section 5; the
graphics RAM is the spec's own, D22, log 16). -/
def Obligations.LoadedCartridge : Prop :=
  ∀ (image : List Byte) (s t : State), hostCall (.loadCartridge image) s = .next t →
    let byte := fun k => image.getD k 0
    let start := 16 + (if byte 6 &&& s.params.trainerMask ≠ 0 then 512 else 0)
    ∃ c, t = s.setCart (some c) ∧ c.prgBanks = byte 4 ∧ c.chrBanks = byte 5 ∧ c.mapperId = 0 ∧
      (∀ k, k < 16384 * (byte 4).toNat → Memory.read c.prg k = image.getD (start + k) 0) ∧
      (∀ k, k < 8192 * (byte 5).toNat →
        Memory.read c.chr k = image.getD (start + 16384 * (byte 4).toNat + k) 0) ∧
      (byte 5 = 0 → c.chrIsRam = true ∧ ∀ k, Memory.read c.chr k = 0)

/-! ## The graphics side -/

/-- After a graphics write every graphics address that is the byte written (`SameGraphicsByte`: the reduction modulo
16384, the palette alias, the byte and table of a name-table address, the address itself below 0x2000) reads the byte, and
every other address reads as before. A write to the pattern range of a cartridge with graphics ROM is read back nowhere
(20_memory.md section 7; the aliases and the pattern range are the spec's own, D18 to D21, log 16; that the pattern range
of a machine without a cartridge is read back is log 3). -/
def Obligations.GraphicsReadAfterWrite : Prop :=
  ∀ (s : State) (a b : Word) (d : Byte), s.Inv →
    (SameGraphicsByte s.params a b ∧ ¬ InGraphicsRom s a → ppuRead (ppuWrite s a d) b = d) ∧
    (¬ SameGraphicsByte s.params a b ∨ InGraphicsRom s a → ppuRead (ppuWrite s a d) b = ppuRead s b)

/-- Where a graphics access goes, with n the address modulo 16384; a read changes nothing and a write nothing but the byte
named. Below 0x2000 a read takes byte n of the cartridge's graphics array; a write stores there with graphics RAM, and in
the internal pattern tables with graphics ROM; with no cartridge both go to the pattern tables (log 3). In 0x2000-0x3EFF
both go to the low ten bits of the table NAMETABLE_SELECT names, by default bit 10, so that 0x2800 reaches table 0 and
0x2C00 table 1. From 0x3F00 both go to the palette with its four aliases (20_memory.md sections 6 and 7; the reduction,
the default, the alias for both directions and the fallback are the spec's own, D18 to D21, log 16). -/
def Obligations.GraphicsAddresses : Prop :=
  ∀ (s : State) (a : Word) (d : Byte),
    let n := a.toNat % 16384
    let name := 1024 * nameTable s.params n + n % 1024
    (n < 8192 →
      (∀ c, s.cart = some c → ppuRead s a = Memory.read c.chr n ∧
        (c.chrBanks = 0 → ppuWrite s a d = s.setCart (some { c with chr := Memory.write c.chr n d })) ∧
        (c.chrBanks ≠ 0 → ppuWrite s a d = s.setGfx { s.gfx with pattern := Memory.write s.gfx.pattern n d })) ∧
      (s.cart = none → ppuRead s a = Memory.read s.gfx.pattern n ∧
        ppuWrite s a d = s.setGfx { s.gfx with pattern := Memory.write s.gfx.pattern n d })) ∧
    (8192 ≤ n → n < 16128 → ppuRead s a = Memory.read s.gfx.nametable name ∧
      ppuWrite s a d = s.setGfx { s.gfx with nametable := Memory.write s.gfx.nametable name d } ∧
      (s.params.nametableFlips = [] → name = n % 2048)) ∧
    (16128 ≤ n → ppuRead s a = Memory.read s.gfx.palette (paletteEntry n) ∧
      ppuWrite s a d = s.setGfx { s.gfx with palette := Memory.write s.gfx.palette (paletteEntry n) d })

/-- STATUS, at every mirror of port 2: a read gives the top three bits of `status` and the low five of `buffer`, then
clears VB and nothing else; the latch stays (60_exceptions.md section 6; the order and VB's bit are the spec's own, D17,
log 16). -/
def Obligations.StatusPort : Prop :=
  ∀ (s : State) (a : Word), IsPortAddress a → a.toNat % 8 = 2 →
    (memRead s a).1 = (s.gfx.status &&& 0xE0) ||| (s.gfx.buffer &&& 0x1F) ∧
    (memRead s a).2 = s.setGfx { s.gfx with status := s.gfx.status &&& 0x7F }

/-- PPU-ADDRESS, at every mirror of port 6: a write sets the high byte of v when the latch is 0 and the low byte when it
is 1, and toggles the latch; two writes with the latch at 0 leave v holding both bytes and the latch at 0
(60_exceptions.md section 6; the unmasked high byte is the spec's own, D18, log 16). -/
def Obligations.AddressPort : Prop :=
  ∀ (s : State) (a b : Word) (d e : Byte), IsPortAddress a → a.toNat % 8 = 6 → IsPortAddress b → b.toNat % 8 = 6 →
    (s.gfx.latch = false →
      memWrite s a d = s.setGfx { s.gfx with v := (s.gfx.v &&& 0x00FF) ||| (zext16 d <<< 8), latch := true } ∧
      memWrite (memWrite s a d) b e = s.setGfx { s.gfx with v := w16 e d }) ∧
    (s.gfx.latch = true →
      memWrite s a d = s.setGfx { s.gfx with v := (s.gfx.v &&& 0xFF00) ||| zext16 d, latch := false })

/-- PPU-DATA, at every mirror of port 7: a read gives the old buffer, or the byte at v when v is at least 0x3F00, refills
the buffer from v and adds 1 to v; a write stores at v, adds 1 to v and leaves the buffer. The write changes nothing else:
not the CPU, RAM, the timer, the parameters, the program ROM, the other registers, nor a byte of the pattern memory but
the one at v, whether or not a read reaches it (60_exceptions.md section 6; the refill after a palette read and the raw
comparison are the spec's own, D18, D39, log 16; where the store lands is GraphicsAddresses). -/
def Obligations.DataPort : Prop :=
  ∀ (s : State) (a : Word) (d : Byte), IsPortAddress a → a.toNat % 8 = 7 →
    (memRead s a).1 = (if 0x3F00 ≤ s.gfx.v.toNat then ppuRead s s.gfx.v else s.gfx.buffer) ∧
    (memRead s a).2 = s.setGfx { s.gfx with buffer := ppuRead s s.gfx.v, v := s.gfx.v + 1 } ∧
    (let stored := ppuWrite s s.gfx.v d
     let t := memWrite s a d
     t = stored.setGfx { stored.gfx with v := s.gfx.v + 1 } ∧
     (∀ c, ppuRead t c = ppuRead stored c) ∧
     t.gfx.v = s.gfx.v + 1 ∧ t.gfx.buffer = s.gfx.buffer ∧ t.gfx.status = s.gfx.status ∧ t.gfx.latch = s.gfx.latch ∧
     t.gfx.ctrl = s.gfx.ctrl ∧ t.gfx.mask = s.gfx.mask ∧
     t.cpu = s.cpu ∧ t.ram = s.ram ∧ t.timer = s.timer ∧ t.params = s.params ∧
     (∀ k, k ≠ s.gfx.v.toNat % 16384 → Memory.read t.gfx.pattern k = Memory.read s.gfx.pattern k) ∧
     (s.cart = none → t.cart = none) ∧
     (∀ c, s.cart = some c → ∃ e, t.cart = some e ∧ e.prg = c.prg ∧ e.prgBanks = c.prgBanks ∧
       e.chrBanks = c.chrBanks ∧ e.mapperId = c.mapperId ∧ (c.chrBanks ≠ 0 → e.chr = c.chr)))

/-- R421: a write to CONTROL or MASK, at every mirror of ports 0 and 1, stores the byte in `ctrl` or `mask` and has no
other effect. Whatever CONTROL holds, a PPU-DATA access advances v by 1 and a timer tick leaves the CPU alone: its
increment-mode bit is ignored and its interrupt enable drives nothing. -/
def Obligations.ControlAndMaskPorts : Prop :=
  (∀ (s : State) (a : Word) (d : Byte), IsPortAddress a →
    (a.toNat % 8 = 0 → memWrite s a d = s.setGfx { s.gfx with ctrl := d }) ∧
    (a.toNat % 8 = 1 → memWrite s a d = s.setGfx { s.gfx with mask := d })) ∧
  (∀ (s : State) (a : Word) (ctrl d : Byte), IsPortAddress a → a.toNat % 8 = 7 →
    let u := s.setGfx { s.gfx with ctrl := ctrl }
    (memRead u a).2.gfx.v = s.gfx.v + 1 ∧ (memWrite u a d).gfx.v = s.gfx.v + 1 ∧ (timerTick u).cpu = s.cpu)

/-! ## The timer -/

/-- The tick that starts at (-1, 1) clears VB, the one that starts at (241, 1) sets it, every other tick leaves it, and no
tick requests an interrupt: the CPU and RAM stay as they are. A tick touches VB, the counters and the frame mark only: the
other graphics registers, the graphics memories, the cartridge and the parameters stay (60_exceptions.md section 7,
20_memory.md section 4; that the values at entry are tested, that VB is bit 7 and what the timer touches are the spec's
own, D28, D17, D38, log 16). -/
def Obligations.VerticalBlankEvents : Prop :=
  ∀ s : State,
    (timerTick s).gfx.status.getLsbD 7 =
      (if s.timer.scanline = -1 ∧ s.timer.cycle = 1 then false
       else if s.timer.scanline = 241 ∧ s.timer.cycle = 1 then true else s.gfx.status.getLsbD 7) ∧
    (timerTick s).gfx.status &&& 0x7F = s.gfx.status &&& 0x7F ∧
    (timerTick s).cpu = s.cpu ∧ (timerTick s).ram = s.ram ∧
    timerTick s = (s.setGfx { s.gfx with status := (timerTick s).gfx.status }).setTimer (timerTick s).timer

/-- A frame is 262 × 341 = 89342 timer ticks: after them the counters stand where they stood and the frame was marked
complete, from every place of the frame (60_exceptions.md section 7). -/
def Obligations.FrameLength : Prop :=
  ∀ s : State, s.timer.Inv →
    (timerTicks 89342 s).timer = { s.timer with frameComplete := true } ∧
    ∀ n, (timerTicks n s).timer.position = (s.timer.position + n) % 89342

/-- VB stays set for 6820 timer ticks when nothing reads STATUS: from the tick at (241, 1) up to the tick at (-1, 1),
which clears it (60_exceptions.md section 7). From power-on it is first set by the 82183rd tick, and the frame is first
complete at the 89001st (70_reset_and_hazards.md section 1; the power-on counters are the spec's own, D29, log 16). -/
def Obligations.VerticalBlankWindow : Prop :=
  (∀ s : State, s.timer.scanline = 241 → s.timer.cycle = 1 →
    (∀ k, 1 ≤ k → k ≤ 6820 → (timerTicks k s).gfx.status.getLsbD 7 = true) ∧
    (timerTicks 6821 s).gfx.status.getLsbD 7 = false) ∧
  (∀ (p : Params) (ram : Memory) (vram : VramInit) (n : Nat),
    let t := timerTicks n (State.powerOn p ram vram)
    (n < 82183 → t.gfx.status.getLsbD 7 = false) ∧ (n = 82183 → t.gfx.status.getLsbD 7 = true) ∧
    ((t.timer.frameComplete = true ↔ 89001 ≤ n)))
end

