-- ==== Sys2Proof/Laws/Flags.lean ====
section
/-! SUPPORT. What a flag reads after a flag computation: the flag written has the value written and every other bit of
P is as before. -/

namespace Sys2Proof.Machine

theorem setBit_getLsbD (b : Byte) (k j : Nat) (v : Bool) (hj : j < 8) :
    (setBit b k v).getLsbD j = if j = k then v else b.getLsbD j := by
  cases v <;>
    simp only [setBit, if_true, if_false, Bool.false_eq_true, BitVec.getLsbD_or, BitVec.getLsbD_and,
      BitVec.getLsbD_not, BitVec.getLsbD_shiftLeft, BitVec.getLsbD_one, hj] <;>
    by_cases h : j = k <;> by_cases h2 : j < k <;> simp_all <;> omega

theorem Flag.bit_lt (f : Flag) : f.bit < 8 := by cases f <;> decide

theorem Flag.bit_eq_iff (f g : Flag) : f.bit = g.bit ↔ f = g := by cases f <;> cases g <;> decide

theorem getFlag_setFlag (p : Byte) (f g : Flag) (v : Bool) :
    getFlag (setFlag p f v) g = if g = f then v else getFlag p g := by
  rw [getFlag, setFlag, setBit_getLsbD _ _ _ _ g.bit_lt]
  simp only [Flag.bit_eq_iff, getFlag]

@[simp] theorem getFlag_setFlag_same (p : Byte) (f : Flag) (v : Bool) : getFlag (setFlag p f v) f = v := by
  simp [getFlag_setFlag]

theorem getFlag_setFlag_other (p : Byte) (f g : Flag) (v : Bool) (h : g ≠ f) :
    getFlag (setFlag p f v) g = getFlag p g := by
  simp [getFlag_setFlag, h]

@[simp] theorem State.flag_setFlag (s : State) (f g : Flag) (v : Bool) :
    (s.setFlag f v).flag g = if g = f then v else s.flag g := getFlag_setFlag s.cpu.p f g v

theorem State.flag_eq (s : State) (f : Flag) : s.flag f = getFlag s.cpu.p f := rfl

/-- Two status bytes with the same flags are the same byte. -/
theorem status_ext (p q : Byte) (h : ∀ f, getFlag p f = getFlag q f) : p = q := by
  apply BitVec.eq_of_getLsbD_eq
  intro k hk
  have : ∃ f : Flag, f.bit = k := by
    match k, hk with
    | 0, _ => exact ⟨.c, rfl⟩
    | 1, _ => exact ⟨.z, rfl⟩
    | 2, _ => exact ⟨.i, rfl⟩
    | 3, _ => exact ⟨.d, rfl⟩
    | 4, _ => exact ⟨.b, rfl⟩
    | 5, _ => exact ⟨.u, rfl⟩
    | 6, _ => exact ⟨.v, rfl⟩
    | 7, _ => exact ⟨.n, rfl⟩
  obtain ⟨f, rfl⟩ := this
  exact h f

/-- `SetZN` writes Z and N and nothing else (R180). -/
theorem getFlag_znFlags (p v : Byte) (f : Flag) :
    getFlag (znFlags p v) f =
      if f = .n then v.getLsbD 7 else if f = .z then v == 0 else getFlag p f := by
  simp only [znFlags, getFlag_setFlag]

/-- ADC's flags (R182). -/
theorem getFlag_addFlags (p a m : Byte) (c : Bool) (f : Flag) :
    getFlag (addFlags p a m c) f =
      if f = .n then (addResult a m c).getLsbD 7
      else if f = .z then addResult a m c == 0
      else if f = .v then overflow a m (addResult a m c)
      else if f = .c then decide (0xFF < addSum a m c) else getFlag p f := by
  simp only [addFlags, getFlag_znFlags, getFlag_setFlag]

/-- The flags of a compare (R230). -/
theorem getFlag_compareFlags (p reg m : Byte) (f : Flag) :
    getFlag (compareFlags p reg m) f =
      if f = .n then (reg - m).getLsbD 7
      else if f = .z then reg - m == 0
      else if f = .c then decide (m.toNat ≤ reg.toNat) else getFlag p f := by
  simp only [compareFlags, getFlag_znFlags, getFlag_setFlag]

/-- BIT's flags (R187). -/
theorem getFlag_bitFlags (p a m : Byte) (f : Flag) :
    getFlag (bitFlags p a m) f =
      if f = .v then m.getLsbD 6
      else if f = .n then m.getLsbD 7
      else if f = .z then (a &&& m) == 0 else getFlag p f := by
  simp only [bitFlags, getFlag_setFlag]

/-- The pushed byte of PHP and BRK: B and U are 1, the rest is P's (R272, R294). -/
theorem getFlag_softwareStatus (p : Byte) (f : Flag) :
    getFlag (softwareStatus p) f = if f = .b ∨ f = .u then true else getFlag p f := by
  cases f <;> simp [softwareStatus, getFlag, Flag.bit]

/-- The status byte of an `irq` or `nmi` entry (R410). -/
theorem getFlag_interruptStatus (p : Byte) (f : Flag) :
    getFlag (interruptStatus p) f = if f = .u then true else if f = .b then false else getFlag p f := by
  simp only [interruptStatus, getFlag_setFlag]

/-- The status byte RTI leaves (R293). -/
theorem getFlag_returnedStatus (p : Byte) (f : Flag) :
    getFlag (returnedStatus p) f = if f = .u then false else if f = .b then false else getFlag p f := by
  simp only [returnedStatus, getFlag_setFlag]

theorem byte_msb_iff (v : Byte) : v.getLsbD 7 = decide (128 ≤ v.toNat) := by
  have : v.getLsbD 7 = v.msb := rfl
  rw [this, BitVec.msb_eq_decide]

theorem byte_zero_iff (v : Byte) : (v == 0) = decide (v.toNat = 0) := by
  rw [Bool.eq_iff_iff]
  simp [BitVec.toNat_eq]

end Sys2Proof.Machine
end

