-- ==== Sys2Proof/Laws/Memory.lean ====
section
/-! SUPPORT. The laws of byte arrays: read after write, the canonical form and the bounds are kept, equal reads mean
equal lists. -/

namespace Sys2Proof.Machine

@[simp] theorem Memory.read_nil (k : Nat) : Memory.read [] k = unlistedByte := rfl

theorem Memory.read_cons (c : Host.Cell) (m : Memory) (k : Nat) :
    Memory.read (c :: m) k = if c.1 = k then c.2 else Memory.read m k := rfl

/-- A key no entry has reads as the unlisted byte. -/
theorem Memory.read_of_not_listed (m : Memory) (k : Nat) (h : ∀ c ∈ m, c.1 ≠ k) :
    Memory.read m k = unlistedByte := by
  induction m with
  | nil => rfl
  | cons c m ih =>
    rw [Memory.read_cons, if_neg (h c (by simp))]
    exact ih fun d hd => h d (by simp [hd])

theorem Memory.wf_nil : Memory.wf [] := by simp [Memory.wf]

theorem Memory.wf_cons (c : Host.Cell) (m : Memory) :
    Memory.wf (c :: m) ↔ (∀ d ∈ m, c.1 < d.1) ∧ c.2 ≠ unlistedByte ∧ Memory.wf m := by
  simp only [Memory.wf, List.pairwise_cons, List.forall_mem_cons]
  tauto

/-- The entries of a written memory are the written one, if it is listed, and old ones. -/
theorem Memory.mem_write (m : Memory) (k : Nat) (v : Byte) (c : Host.Cell)
    (h : c ∈ Memory.write m k v) : (c = (k, v) ∧ v ≠ unlistedByte) ∨ c ∈ m := by
  induction m with
  | nil =>
    simp only [Memory.write] at h
    split at h <;> simp_all
  | cons d m ih =>
    simp only [Memory.write] at h
    by_cases h1 : d.1 < k
    · rw [if_pos h1] at h
      rcases List.mem_cons.1 h with rfl | h
      · simp
      · rcases ih h with h | h <;> simp [h]
    · rw [if_neg h1] at h
      by_cases h2 : d.1 = k <;> by_cases h3 : v = unlistedByte <;> simp only [h2, h3, if_true, if_false] at h <;>
        simp only [List.mem_cons] at h ⊢ <;> tauto

theorem Memory.write_below (m : Memory) (k size : Nat) (v : Byte) (hm : Memory.below m size) (hk : k < size) :
    Memory.below (Memory.write m k v) size := by
  intro c hc
  rcases Memory.mem_write m k v c hc with ⟨rfl, -⟩ | h
  · exact hk
  · exact hm c h

/-- A write keeps the canonical form. -/
theorem Memory.write_wf (m : Memory) (k : Nat) (v : Byte) (h : Memory.wf m) : Memory.wf (Memory.write m k v) := by
  induction m with
  | nil =>
    simp only [Memory.write]
    split
    · exact Memory.wf_nil
    · simp_all [Memory.wf]
  | cons d m ih =>
    obtain ⟨h1, h2, h3⟩ := (Memory.wf_cons d m).1 h
    simp only [Memory.write]
    by_cases hlt : d.1 < k
    · rw [if_pos hlt, Memory.wf_cons]
      refine ⟨fun e he => ?_, h2, ih h3⟩
      rcases Memory.mem_write m k v e he with ⟨rfl, -⟩ | he
      · exact hlt
      · exact h1 e he
    · rw [if_neg hlt]
      by_cases heq : d.1 = k
      · simp only [heq, if_true]
        split
        · exact h3
        · exact (Memory.wf_cons _ _).2 ⟨fun e he => heq ▸ h1 e he, ‹_›, h3⟩
      · simp only [if_neg heq]
        have hk : k < d.1 := by omega
        split
        · exact h
        · refine (Memory.wf_cons _ _).2 ⟨fun e he => ?_, ‹_›, h⟩
          rcases List.mem_cons.1 he with rfl | he
          · exact hk
          · exact Nat.lt_trans hk (h1 e he)

/-- Read after write, the same place. -/
theorem Memory.read_write_same (m : Memory) (k : Nat) (v : Byte) (h : Memory.wf m) :
    Memory.read (Memory.write m k v) k = v := by
  induction m with
  | nil =>
    simp only [Memory.write]
    split <;> simp_all [Memory.read_cons]
  | cons d m ih =>
    obtain ⟨h1, -, h3⟩ := (Memory.wf_cons d m).1 h
    simp only [Memory.write]
    by_cases hlt : d.1 < k
    · rw [if_pos hlt, Memory.read_cons, if_neg (by omega)]
      exact ih h3
    · rw [if_neg hlt]
      by_cases hv : v = unlistedByte
      · simp only [hv, if_true]
        apply Memory.read_of_not_listed
        intro c hc
        by_cases heq : d.1 = k
        · rw [if_pos heq] at hc
          have := h1 c hc
          omega
        · rw [if_neg heq] at hc
          rcases List.mem_cons.1 hc with rfl | hc
          · exact heq
          · have := h1 c hc
            omega
      · simp [hv, Memory.read_cons]

/-- Read after write, any other place: it needs no canonical form. -/
theorem Memory.read_write_other (m : Memory) (k j : Nat) (v : Byte) (hj : j ≠ k) :
    Memory.read (Memory.write m k v) j = Memory.read m j := by
  induction m with
  | nil =>
    simp only [Memory.write]
    split <;> simp_all [Memory.read_cons, Ne.symm hj]
  | cons d m ih =>
    simp only [Memory.write]
    by_cases hlt : d.1 < k
    · rw [if_pos hlt, Memory.read_cons, Memory.read_cons, ih]
    · rw [if_neg hlt]
      by_cases heq : d.1 = k <;> by_cases hv : v = unlistedByte <;>
        simp [heq, hv, Memory.read_cons, Ne.symm hj]

theorem Memory.read_write (m : Memory) (k j : Nat) (v : Byte) (h : Memory.wf m) :
    Memory.read (Memory.write m k v) j = if j = k then v else Memory.read m j := by
  split
  · subst j
    exact Memory.read_write_same m k v h
  · exact Memory.read_write_other m k j v ‹_›

/-- An entry of a canonical memory is what its key reads as. -/
theorem Memory.read_of_mem (m : Memory) (c : Host.Cell) (h : Memory.wf m) (hc : c ∈ m) : Memory.read m c.1 = c.2 := by
  induction m with
  | nil => simp at hc
  | cons d m ih =>
    obtain ⟨h1, -, h3⟩ := (Memory.wf_cons d m).1 h
    rcases List.mem_cons.1 hc with rfl | hc
    · simp [Memory.read_cons]
    · rw [Memory.read_cons, if_neg (by have := h1 c hc; omega)]
      exact ih h3 hc

/-- An entry of a canonical memory is an entry of every canonical memory that reads alike. -/
theorem Memory.mem_of_read_eq (m n : Memory) (hm : Memory.wf m) (hn : Memory.wf n)
    (h : ∀ k, Memory.read m k = Memory.read n k) (c : Host.Cell) (hc : c ∈ m) : c ∈ n := by
  have hr : Memory.read n c.1 = c.2 := by rw [← h]; exact Memory.read_of_mem m c hm hc
  by_contra hcn
  by_cases listed : ∃ d ∈ n, d.1 = c.1
  · obtain ⟨d, hd, hdc⟩ := listed
    have hd2 := Memory.read_of_mem n d hn hd
    rw [hdc, hr] at hd2
    exact hcn (by rw [show c = d from Prod.ext hdc.symm hd2]; exact hd)
  · push Not at listed
    rw [Memory.read_of_not_listed n c.1 listed] at hr
    exact hm.2 c hc hr.symm

/-- Canonical memories that read alike are equal data. -/
theorem Memory.ext_read (m n : Memory) (hm : Memory.wf m) (hn : Memory.wf n)
    (h : ∀ k, Memory.read m k = Memory.read n k) : m = n := by
  have nodup : ∀ l : Memory, Memory.wf l → l.Nodup := fun l hl => hl.1.imp (fun h => by rintro rfl; omega)
  exact List.Perm.eq_of_pairwise (fun a b _ _ h1 h2 => absurd h1 (by omega)) hm.1 hn.1
    ((List.perm_ext_iff_of_nodup (nodup m hm) (nodup n hn)).2 fun c =>
      ⟨Memory.mem_of_read_eq m n hm hn h c, Memory.mem_of_read_eq n m hn hm (fun k => (h k).symm) c⟩)

theorem Memory.le_of_mem_ofBytes (bytes : List Byte) :
    ∀ (base : Nat), ∀ c ∈ Memory.ofBytes base bytes, base ≤ c.1 ∧ c.1 < base + bytes.length := by
  induction bytes with
  | nil => simp [Memory.ofBytes]
  | cons b bytes ih =>
    intro base c hc
    simp only [Memory.ofBytes] at hc
    have step : c ∈ Memory.ofBytes (base + 1) bytes → base ≤ c.1 ∧ c.1 < base + (b :: bytes).length := by
      intro h
      have := ih (base + 1) c h
      simp only [List.length_cons]
      omega
    split at hc
    · exact step hc
    · rcases List.mem_cons.1 hc with rfl | hc
      · simp
      · exact step hc

theorem Memory.ofBytes_wf (bytes : List Byte) : ∀ base, Memory.wf (Memory.ofBytes base bytes) := by
  induction bytes with
  | nil => intro base; exact Memory.wf_nil
  | cons b bytes ih =>
    intro base
    simp only [Memory.ofBytes]
    split
    · exact ih _
    · refine (Memory.wf_cons _ _).2 ⟨fun d hd => ?_, ‹_›, ih _⟩
      have := Memory.le_of_mem_ofBytes bytes (base + 1) d hd
      simp only
      omega

theorem Memory.ofBytes_below (bytes : List Byte) : Memory.below (Memory.ofBytes 0 bytes) bytes.length := by
  intro c hc
  have := Memory.le_of_mem_ofBytes bytes 0 c hc
  omega

/-- A loaded array reads as the bytes it was loaded from. -/
theorem Memory.read_ofBytes (bytes : List Byte) :
    ∀ (base k : Nat), Memory.read (Memory.ofBytes base bytes) (base + k) = bytes.getD k unlistedByte := by
  induction bytes with
  | nil => simp [Memory.ofBytes]
  | cons b bytes ih =>
    intro base k
    simp only [Memory.ofBytes]
    have below : Memory.read (Memory.ofBytes (base + 1) bytes) base = unlistedByte := by
      apply Memory.read_of_not_listed
      intro c hc
      have := Memory.le_of_mem_ofBytes bytes (base + 1) c hc
      omega
    cases k with
    | zero => split <;> simp_all [Memory.read_cons]
    | succ j =>
      have := ih (base + 1) j
      rw [show base + 1 + j = base + (j + 1) from by omega] at this
      split
      · simpa using this
      · rw [Memory.read_cons, if_neg (by simp)]
        simpa using this

end Sys2Proof.Machine
end

