-- ==== Sys2Proof/Laws/State.lean ====
section
/-! SUPPORT. One lemma per field per update of `State`, true by rfl, so that no proof unfolds a record update; and the
same for the functions that read only memory, which no CPU register update touches. -/

namespace Sys2Proof.Machine

/-! ### setA -/

@[simp] theorem State.setA_a (s : State) (v : Byte) : (s.setA v).cpu.a = v := rfl
@[simp] theorem State.setA_x (s : State) (v : Byte) : (s.setA v).cpu.x = s.cpu.x := rfl
@[simp] theorem State.setA_y (s : State) (v : Byte) : (s.setA v).cpu.y = s.cpu.y := rfl
@[simp] theorem State.setA_sp (s : State) (v : Byte) : (s.setA v).cpu.sp = s.cpu.sp := rfl
@[simp] theorem State.setA_pc (s : State) (v : Byte) : (s.setA v).cpu.pc = s.cpu.pc := rfl
@[simp] theorem State.setA_p (s : State) (v : Byte) : (s.setA v).cpu.p = s.cpu.p := rfl
@[simp] theorem State.setA_opcode (s : State) (v : Byte) : (s.setA v).cpu.opcode = s.cpu.opcode := rfl
@[simp] theorem State.setA_fetched (s : State) (v : Byte) : (s.setA v).cpu.fetched = s.cpu.fetched := rfl
@[simp] theorem State.setA_temp (s : State) (v : Byte) : (s.setA v).cpu.temp = s.cpu.temp := rfl
@[simp] theorem State.setA_addrAbs (s : State) (v : Byte) : (s.setA v).cpu.addrAbs = s.cpu.addrAbs := rfl
@[simp] theorem State.setA_addrRel (s : State) (v : Byte) : (s.setA v).cpu.addrRel = s.cpu.addrRel := rfl
@[simp] theorem State.setA_remaining (s : State) (v : Byte) : (s.setA v).cpu.remaining = s.cpu.remaining := rfl
@[simp] theorem State.setA_totalCycles (s : State) (v : Byte) : (s.setA v).cpu.totalCycles = s.cpu.totalCycles := rfl
@[simp] theorem State.setA_ram (s : State) (v : Byte) : (s.setA v).ram = s.ram := rfl
@[simp] theorem State.setA_cart (s : State) (v : Byte) : (s.setA v).cart = s.cart := rfl
@[simp] theorem State.setA_gfx (s : State) (v : Byte) : (s.setA v).gfx = s.gfx := rfl
@[simp] theorem State.setA_timer (s : State) (v : Byte) : (s.setA v).timer = s.timer := rfl
@[simp] theorem State.setA_params (s : State) (v : Byte) : (s.setA v).params = s.params := rfl
@[simp] theorem State.setA_wasReset (s : State) (v : Byte) : (s.setA v).wasReset = s.wasReset := rfl
@[simp] theorem State.setA_freeCount (s : State) (v : Byte) : (s.setA v).freeCount = s.freeCount := rfl
@[simp] theorem route_setA (s : State) (v : Byte) (a : Word) : route (s.setA v) a = route s a := rfl
@[simp] theorem peek_setA (s : State) (v : Byte) (a : Word) : peek (s.setA v) a = peek s a := rfl
@[simp] theorem ppuRead_setA (s : State) (v : Byte) (a : Word) : ppuRead (s.setA v) a = ppuRead s a := rfl
@[simp] theorem State.setA_flag (s : State) (v : Byte) (k : Flag) : (s.setA v).flag k = s.flag k := rfl

/-! ### setX -/

@[simp] theorem State.setX_a (s : State) (v : Byte) : (s.setX v).cpu.a = s.cpu.a := rfl
@[simp] theorem State.setX_x (s : State) (v : Byte) : (s.setX v).cpu.x = v := rfl
@[simp] theorem State.setX_y (s : State) (v : Byte) : (s.setX v).cpu.y = s.cpu.y := rfl
@[simp] theorem State.setX_sp (s : State) (v : Byte) : (s.setX v).cpu.sp = s.cpu.sp := rfl
@[simp] theorem State.setX_pc (s : State) (v : Byte) : (s.setX v).cpu.pc = s.cpu.pc := rfl
@[simp] theorem State.setX_p (s : State) (v : Byte) : (s.setX v).cpu.p = s.cpu.p := rfl
@[simp] theorem State.setX_opcode (s : State) (v : Byte) : (s.setX v).cpu.opcode = s.cpu.opcode := rfl
@[simp] theorem State.setX_fetched (s : State) (v : Byte) : (s.setX v).cpu.fetched = s.cpu.fetched := rfl
@[simp] theorem State.setX_temp (s : State) (v : Byte) : (s.setX v).cpu.temp = s.cpu.temp := rfl
@[simp] theorem State.setX_addrAbs (s : State) (v : Byte) : (s.setX v).cpu.addrAbs = s.cpu.addrAbs := rfl
@[simp] theorem State.setX_addrRel (s : State) (v : Byte) : (s.setX v).cpu.addrRel = s.cpu.addrRel := rfl
@[simp] theorem State.setX_remaining (s : State) (v : Byte) : (s.setX v).cpu.remaining = s.cpu.remaining := rfl
@[simp] theorem State.setX_totalCycles (s : State) (v : Byte) : (s.setX v).cpu.totalCycles = s.cpu.totalCycles := rfl
@[simp] theorem State.setX_ram (s : State) (v : Byte) : (s.setX v).ram = s.ram := rfl
@[simp] theorem State.setX_cart (s : State) (v : Byte) : (s.setX v).cart = s.cart := rfl
@[simp] theorem State.setX_gfx (s : State) (v : Byte) : (s.setX v).gfx = s.gfx := rfl
@[simp] theorem State.setX_timer (s : State) (v : Byte) : (s.setX v).timer = s.timer := rfl
@[simp] theorem State.setX_params (s : State) (v : Byte) : (s.setX v).params = s.params := rfl
@[simp] theorem State.setX_wasReset (s : State) (v : Byte) : (s.setX v).wasReset = s.wasReset := rfl
@[simp] theorem State.setX_freeCount (s : State) (v : Byte) : (s.setX v).freeCount = s.freeCount := rfl
@[simp] theorem route_setX (s : State) (v : Byte) (a : Word) : route (s.setX v) a = route s a := rfl
@[simp] theorem peek_setX (s : State) (v : Byte) (a : Word) : peek (s.setX v) a = peek s a := rfl
@[simp] theorem ppuRead_setX (s : State) (v : Byte) (a : Word) : ppuRead (s.setX v) a = ppuRead s a := rfl
@[simp] theorem State.setX_flag (s : State) (v : Byte) (k : Flag) : (s.setX v).flag k = s.flag k := rfl

/-! ### setY -/

@[simp] theorem State.setY_a (s : State) (v : Byte) : (s.setY v).cpu.a = s.cpu.a := rfl
@[simp] theorem State.setY_x (s : State) (v : Byte) : (s.setY v).cpu.x = s.cpu.x := rfl
@[simp] theorem State.setY_y (s : State) (v : Byte) : (s.setY v).cpu.y = v := rfl
@[simp] theorem State.setY_sp (s : State) (v : Byte) : (s.setY v).cpu.sp = s.cpu.sp := rfl
@[simp] theorem State.setY_pc (s : State) (v : Byte) : (s.setY v).cpu.pc = s.cpu.pc := rfl
@[simp] theorem State.setY_p (s : State) (v : Byte) : (s.setY v).cpu.p = s.cpu.p := rfl
@[simp] theorem State.setY_opcode (s : State) (v : Byte) : (s.setY v).cpu.opcode = s.cpu.opcode := rfl
@[simp] theorem State.setY_fetched (s : State) (v : Byte) : (s.setY v).cpu.fetched = s.cpu.fetched := rfl
@[simp] theorem State.setY_temp (s : State) (v : Byte) : (s.setY v).cpu.temp = s.cpu.temp := rfl
@[simp] theorem State.setY_addrAbs (s : State) (v : Byte) : (s.setY v).cpu.addrAbs = s.cpu.addrAbs := rfl
@[simp] theorem State.setY_addrRel (s : State) (v : Byte) : (s.setY v).cpu.addrRel = s.cpu.addrRel := rfl
@[simp] theorem State.setY_remaining (s : State) (v : Byte) : (s.setY v).cpu.remaining = s.cpu.remaining := rfl
@[simp] theorem State.setY_totalCycles (s : State) (v : Byte) : (s.setY v).cpu.totalCycles = s.cpu.totalCycles := rfl
@[simp] theorem State.setY_ram (s : State) (v : Byte) : (s.setY v).ram = s.ram := rfl
@[simp] theorem State.setY_cart (s : State) (v : Byte) : (s.setY v).cart = s.cart := rfl
@[simp] theorem State.setY_gfx (s : State) (v : Byte) : (s.setY v).gfx = s.gfx := rfl
@[simp] theorem State.setY_timer (s : State) (v : Byte) : (s.setY v).timer = s.timer := rfl
@[simp] theorem State.setY_params (s : State) (v : Byte) : (s.setY v).params = s.params := rfl
@[simp] theorem State.setY_wasReset (s : State) (v : Byte) : (s.setY v).wasReset = s.wasReset := rfl
@[simp] theorem State.setY_freeCount (s : State) (v : Byte) : (s.setY v).freeCount = s.freeCount := rfl
@[simp] theorem route_setY (s : State) (v : Byte) (a : Word) : route (s.setY v) a = route s a := rfl
@[simp] theorem peek_setY (s : State) (v : Byte) (a : Word) : peek (s.setY v) a = peek s a := rfl
@[simp] theorem ppuRead_setY (s : State) (v : Byte) (a : Word) : ppuRead (s.setY v) a = ppuRead s a := rfl
@[simp] theorem State.setY_flag (s : State) (v : Byte) (k : Flag) : (s.setY v).flag k = s.flag k := rfl

/-! ### setSP -/

@[simp] theorem State.setSP_a (s : State) (v : Byte) : (s.setSP v).cpu.a = s.cpu.a := rfl
@[simp] theorem State.setSP_x (s : State) (v : Byte) : (s.setSP v).cpu.x = s.cpu.x := rfl
@[simp] theorem State.setSP_y (s : State) (v : Byte) : (s.setSP v).cpu.y = s.cpu.y := rfl
@[simp] theorem State.setSP_sp (s : State) (v : Byte) : (s.setSP v).cpu.sp = v := rfl
@[simp] theorem State.setSP_pc (s : State) (v : Byte) : (s.setSP v).cpu.pc = s.cpu.pc := rfl
@[simp] theorem State.setSP_p (s : State) (v : Byte) : (s.setSP v).cpu.p = s.cpu.p := rfl
@[simp] theorem State.setSP_opcode (s : State) (v : Byte) : (s.setSP v).cpu.opcode = s.cpu.opcode := rfl
@[simp] theorem State.setSP_fetched (s : State) (v : Byte) : (s.setSP v).cpu.fetched = s.cpu.fetched := rfl
@[simp] theorem State.setSP_temp (s : State) (v : Byte) : (s.setSP v).cpu.temp = s.cpu.temp := rfl
@[simp] theorem State.setSP_addrAbs (s : State) (v : Byte) : (s.setSP v).cpu.addrAbs = s.cpu.addrAbs := rfl
@[simp] theorem State.setSP_addrRel (s : State) (v : Byte) : (s.setSP v).cpu.addrRel = s.cpu.addrRel := rfl
@[simp] theorem State.setSP_remaining (s : State) (v : Byte) : (s.setSP v).cpu.remaining = s.cpu.remaining := rfl
@[simp] theorem State.setSP_totalCycles (s : State) (v : Byte) : (s.setSP v).cpu.totalCycles = s.cpu.totalCycles := rfl
@[simp] theorem State.setSP_ram (s : State) (v : Byte) : (s.setSP v).ram = s.ram := rfl
@[simp] theorem State.setSP_cart (s : State) (v : Byte) : (s.setSP v).cart = s.cart := rfl
@[simp] theorem State.setSP_gfx (s : State) (v : Byte) : (s.setSP v).gfx = s.gfx := rfl
@[simp] theorem State.setSP_timer (s : State) (v : Byte) : (s.setSP v).timer = s.timer := rfl
@[simp] theorem State.setSP_params (s : State) (v : Byte) : (s.setSP v).params = s.params := rfl
@[simp] theorem State.setSP_wasReset (s : State) (v : Byte) : (s.setSP v).wasReset = s.wasReset := rfl
@[simp] theorem State.setSP_freeCount (s : State) (v : Byte) : (s.setSP v).freeCount = s.freeCount := rfl
@[simp] theorem route_setSP (s : State) (v : Byte) (a : Word) : route (s.setSP v) a = route s a := rfl
@[simp] theorem peek_setSP (s : State) (v : Byte) (a : Word) : peek (s.setSP v) a = peek s a := rfl
@[simp] theorem ppuRead_setSP (s : State) (v : Byte) (a : Word) : ppuRead (s.setSP v) a = ppuRead s a := rfl
@[simp] theorem State.setSP_flag (s : State) (v : Byte) (k : Flag) : (s.setSP v).flag k = s.flag k := rfl

/-! ### setPC -/

@[simp] theorem State.setPC_a (s : State) (v : Word) : (s.setPC v).cpu.a = s.cpu.a := rfl
@[simp] theorem State.setPC_x (s : State) (v : Word) : (s.setPC v).cpu.x = s.cpu.x := rfl
@[simp] theorem State.setPC_y (s : State) (v : Word) : (s.setPC v).cpu.y = s.cpu.y := rfl
@[simp] theorem State.setPC_sp (s : State) (v : Word) : (s.setPC v).cpu.sp = s.cpu.sp := rfl
@[simp] theorem State.setPC_pc (s : State) (v : Word) : (s.setPC v).cpu.pc = v := rfl
@[simp] theorem State.setPC_p (s : State) (v : Word) : (s.setPC v).cpu.p = s.cpu.p := rfl
@[simp] theorem State.setPC_opcode (s : State) (v : Word) : (s.setPC v).cpu.opcode = s.cpu.opcode := rfl
@[simp] theorem State.setPC_fetched (s : State) (v : Word) : (s.setPC v).cpu.fetched = s.cpu.fetched := rfl
@[simp] theorem State.setPC_temp (s : State) (v : Word) : (s.setPC v).cpu.temp = s.cpu.temp := rfl
@[simp] theorem State.setPC_addrAbs (s : State) (v : Word) : (s.setPC v).cpu.addrAbs = s.cpu.addrAbs := rfl
@[simp] theorem State.setPC_addrRel (s : State) (v : Word) : (s.setPC v).cpu.addrRel = s.cpu.addrRel := rfl
@[simp] theorem State.setPC_remaining (s : State) (v : Word) : (s.setPC v).cpu.remaining = s.cpu.remaining := rfl
@[simp] theorem State.setPC_totalCycles (s : State) (v : Word) : (s.setPC v).cpu.totalCycles = s.cpu.totalCycles := rfl
@[simp] theorem State.setPC_ram (s : State) (v : Word) : (s.setPC v).ram = s.ram := rfl
@[simp] theorem State.setPC_cart (s : State) (v : Word) : (s.setPC v).cart = s.cart := rfl
@[simp] theorem State.setPC_gfx (s : State) (v : Word) : (s.setPC v).gfx = s.gfx := rfl
@[simp] theorem State.setPC_timer (s : State) (v : Word) : (s.setPC v).timer = s.timer := rfl
@[simp] theorem State.setPC_params (s : State) (v : Word) : (s.setPC v).params = s.params := rfl
@[simp] theorem State.setPC_wasReset (s : State) (v : Word) : (s.setPC v).wasReset = s.wasReset := rfl
@[simp] theorem State.setPC_freeCount (s : State) (v : Word) : (s.setPC v).freeCount = s.freeCount := rfl
@[simp] theorem route_setPC (s : State) (v : Word) (a : Word) : route (s.setPC v) a = route s a := rfl
@[simp] theorem peek_setPC (s : State) (v : Word) (a : Word) : peek (s.setPC v) a = peek s a := rfl
@[simp] theorem ppuRead_setPC (s : State) (v : Word) (a : Word) : ppuRead (s.setPC v) a = ppuRead s a := rfl
@[simp] theorem State.setPC_flag (s : State) (v : Word) (k : Flag) : (s.setPC v).flag k = s.flag k := rfl

/-! ### setP -/

@[simp] theorem State.setP_a (s : State) (v : Byte) : (s.setP v).cpu.a = s.cpu.a := rfl
@[simp] theorem State.setP_x (s : State) (v : Byte) : (s.setP v).cpu.x = s.cpu.x := rfl
@[simp] theorem State.setP_y (s : State) (v : Byte) : (s.setP v).cpu.y = s.cpu.y := rfl
@[simp] theorem State.setP_sp (s : State) (v : Byte) : (s.setP v).cpu.sp = s.cpu.sp := rfl
@[simp] theorem State.setP_pc (s : State) (v : Byte) : (s.setP v).cpu.pc = s.cpu.pc := rfl
@[simp] theorem State.setP_p (s : State) (v : Byte) : (s.setP v).cpu.p = v := rfl
@[simp] theorem State.setP_opcode (s : State) (v : Byte) : (s.setP v).cpu.opcode = s.cpu.opcode := rfl
@[simp] theorem State.setP_fetched (s : State) (v : Byte) : (s.setP v).cpu.fetched = s.cpu.fetched := rfl
@[simp] theorem State.setP_temp (s : State) (v : Byte) : (s.setP v).cpu.temp = s.cpu.temp := rfl
@[simp] theorem State.setP_addrAbs (s : State) (v : Byte) : (s.setP v).cpu.addrAbs = s.cpu.addrAbs := rfl
@[simp] theorem State.setP_addrRel (s : State) (v : Byte) : (s.setP v).cpu.addrRel = s.cpu.addrRel := rfl
@[simp] theorem State.setP_remaining (s : State) (v : Byte) : (s.setP v).cpu.remaining = s.cpu.remaining := rfl
@[simp] theorem State.setP_totalCycles (s : State) (v : Byte) : (s.setP v).cpu.totalCycles = s.cpu.totalCycles := rfl
@[simp] theorem State.setP_ram (s : State) (v : Byte) : (s.setP v).ram = s.ram := rfl
@[simp] theorem State.setP_cart (s : State) (v : Byte) : (s.setP v).cart = s.cart := rfl
@[simp] theorem State.setP_gfx (s : State) (v : Byte) : (s.setP v).gfx = s.gfx := rfl
@[simp] theorem State.setP_timer (s : State) (v : Byte) : (s.setP v).timer = s.timer := rfl
@[simp] theorem State.setP_params (s : State) (v : Byte) : (s.setP v).params = s.params := rfl
@[simp] theorem State.setP_wasReset (s : State) (v : Byte) : (s.setP v).wasReset = s.wasReset := rfl
@[simp] theorem State.setP_freeCount (s : State) (v : Byte) : (s.setP v).freeCount = s.freeCount := rfl
@[simp] theorem route_setP (s : State) (v : Byte) (a : Word) : route (s.setP v) a = route s a := rfl
@[simp] theorem peek_setP (s : State) (v : Byte) (a : Word) : peek (s.setP v) a = peek s a := rfl
@[simp] theorem ppuRead_setP (s : State) (v : Byte) (a : Word) : ppuRead (s.setP v) a = ppuRead s a := rfl
@[simp] theorem State.setP_flag (s : State) (v : Byte) (k : Flag) : (s.setP v).flag k = getFlag v k := rfl

/-! ### setOpcode -/

@[simp] theorem State.setOpcode_a (s : State) (v : Byte) : (s.setOpcode v).cpu.a = s.cpu.a := rfl
@[simp] theorem State.setOpcode_x (s : State) (v : Byte) : (s.setOpcode v).cpu.x = s.cpu.x := rfl
@[simp] theorem State.setOpcode_y (s : State) (v : Byte) : (s.setOpcode v).cpu.y = s.cpu.y := rfl
@[simp] theorem State.setOpcode_sp (s : State) (v : Byte) : (s.setOpcode v).cpu.sp = s.cpu.sp := rfl
@[simp] theorem State.setOpcode_pc (s : State) (v : Byte) : (s.setOpcode v).cpu.pc = s.cpu.pc := rfl
@[simp] theorem State.setOpcode_p (s : State) (v : Byte) : (s.setOpcode v).cpu.p = s.cpu.p := rfl
@[simp] theorem State.setOpcode_opcode (s : State) (v : Byte) : (s.setOpcode v).cpu.opcode = v := rfl
@[simp] theorem State.setOpcode_fetched (s : State) (v : Byte) : (s.setOpcode v).cpu.fetched = s.cpu.fetched := rfl
@[simp] theorem State.setOpcode_temp (s : State) (v : Byte) : (s.setOpcode v).cpu.temp = s.cpu.temp := rfl
@[simp] theorem State.setOpcode_addrAbs (s : State) (v : Byte) : (s.setOpcode v).cpu.addrAbs = s.cpu.addrAbs := rfl
@[simp] theorem State.setOpcode_addrRel (s : State) (v : Byte) : (s.setOpcode v).cpu.addrRel = s.cpu.addrRel := rfl
@[simp] theorem State.setOpcode_remaining (s : State) (v : Byte) : (s.setOpcode v).cpu.remaining = s.cpu.remaining := rfl
@[simp] theorem State.setOpcode_totalCycles (s : State) (v : Byte) : (s.setOpcode v).cpu.totalCycles = s.cpu.totalCycles := rfl
@[simp] theorem State.setOpcode_ram (s : State) (v : Byte) : (s.setOpcode v).ram = s.ram := rfl
@[simp] theorem State.setOpcode_cart (s : State) (v : Byte) : (s.setOpcode v).cart = s.cart := rfl
@[simp] theorem State.setOpcode_gfx (s : State) (v : Byte) : (s.setOpcode v).gfx = s.gfx := rfl
@[simp] theorem State.setOpcode_timer (s : State) (v : Byte) : (s.setOpcode v).timer = s.timer := rfl
@[simp] theorem State.setOpcode_params (s : State) (v : Byte) : (s.setOpcode v).params = s.params := rfl
@[simp] theorem State.setOpcode_wasReset (s : State) (v : Byte) : (s.setOpcode v).wasReset = s.wasReset := rfl
@[simp] theorem State.setOpcode_freeCount (s : State) (v : Byte) : (s.setOpcode v).freeCount = s.freeCount := rfl
@[simp] theorem route_setOpcode (s : State) (v : Byte) (a : Word) : route (s.setOpcode v) a = route s a := rfl
@[simp] theorem peek_setOpcode (s : State) (v : Byte) (a : Word) : peek (s.setOpcode v) a = peek s a := rfl
@[simp] theorem ppuRead_setOpcode (s : State) (v : Byte) (a : Word) : ppuRead (s.setOpcode v) a = ppuRead s a := rfl
@[simp] theorem State.setOpcode_flag (s : State) (v : Byte) (k : Flag) : (s.setOpcode v).flag k = s.flag k := rfl

/-! ### setFetched -/

@[simp] theorem State.setFetched_a (s : State) (v : Byte) : (s.setFetched v).cpu.a = s.cpu.a := rfl
@[simp] theorem State.setFetched_x (s : State) (v : Byte) : (s.setFetched v).cpu.x = s.cpu.x := rfl
@[simp] theorem State.setFetched_y (s : State) (v : Byte) : (s.setFetched v).cpu.y = s.cpu.y := rfl
@[simp] theorem State.setFetched_sp (s : State) (v : Byte) : (s.setFetched v).cpu.sp = s.cpu.sp := rfl
@[simp] theorem State.setFetched_pc (s : State) (v : Byte) : (s.setFetched v).cpu.pc = s.cpu.pc := rfl
@[simp] theorem State.setFetched_p (s : State) (v : Byte) : (s.setFetched v).cpu.p = s.cpu.p := rfl
@[simp] theorem State.setFetched_opcode (s : State) (v : Byte) : (s.setFetched v).cpu.opcode = s.cpu.opcode := rfl
@[simp] theorem State.setFetched_fetched (s : State) (v : Byte) : (s.setFetched v).cpu.fetched = v := rfl
@[simp] theorem State.setFetched_temp (s : State) (v : Byte) : (s.setFetched v).cpu.temp = s.cpu.temp := rfl
@[simp] theorem State.setFetched_addrAbs (s : State) (v : Byte) : (s.setFetched v).cpu.addrAbs = s.cpu.addrAbs := rfl
@[simp] theorem State.setFetched_addrRel (s : State) (v : Byte) : (s.setFetched v).cpu.addrRel = s.cpu.addrRel := rfl
@[simp] theorem State.setFetched_remaining (s : State) (v : Byte) : (s.setFetched v).cpu.remaining = s.cpu.remaining := rfl
@[simp] theorem State.setFetched_totalCycles (s : State) (v : Byte) : (s.setFetched v).cpu.totalCycles = s.cpu.totalCycles := rfl
@[simp] theorem State.setFetched_ram (s : State) (v : Byte) : (s.setFetched v).ram = s.ram := rfl
@[simp] theorem State.setFetched_cart (s : State) (v : Byte) : (s.setFetched v).cart = s.cart := rfl
@[simp] theorem State.setFetched_gfx (s : State) (v : Byte) : (s.setFetched v).gfx = s.gfx := rfl
@[simp] theorem State.setFetched_timer (s : State) (v : Byte) : (s.setFetched v).timer = s.timer := rfl
@[simp] theorem State.setFetched_params (s : State) (v : Byte) : (s.setFetched v).params = s.params := rfl
@[simp] theorem State.setFetched_wasReset (s : State) (v : Byte) : (s.setFetched v).wasReset = s.wasReset := rfl
@[simp] theorem State.setFetched_freeCount (s : State) (v : Byte) : (s.setFetched v).freeCount = s.freeCount := rfl
@[simp] theorem route_setFetched (s : State) (v : Byte) (a : Word) : route (s.setFetched v) a = route s a := rfl
@[simp] theorem peek_setFetched (s : State) (v : Byte) (a : Word) : peek (s.setFetched v) a = peek s a := rfl
@[simp] theorem ppuRead_setFetched (s : State) (v : Byte) (a : Word) : ppuRead (s.setFetched v) a = ppuRead s a := rfl
@[simp] theorem State.setFetched_flag (s : State) (v : Byte) (k : Flag) : (s.setFetched v).flag k = s.flag k := rfl

/-! ### setTemp -/

@[simp] theorem State.setTemp_a (s : State) (v : Word) : (s.setTemp v).cpu.a = s.cpu.a := rfl
@[simp] theorem State.setTemp_x (s : State) (v : Word) : (s.setTemp v).cpu.x = s.cpu.x := rfl
@[simp] theorem State.setTemp_y (s : State) (v : Word) : (s.setTemp v).cpu.y = s.cpu.y := rfl
@[simp] theorem State.setTemp_sp (s : State) (v : Word) : (s.setTemp v).cpu.sp = s.cpu.sp := rfl
@[simp] theorem State.setTemp_pc (s : State) (v : Word) : (s.setTemp v).cpu.pc = s.cpu.pc := rfl
@[simp] theorem State.setTemp_p (s : State) (v : Word) : (s.setTemp v).cpu.p = s.cpu.p := rfl
@[simp] theorem State.setTemp_opcode (s : State) (v : Word) : (s.setTemp v).cpu.opcode = s.cpu.opcode := rfl
@[simp] theorem State.setTemp_fetched (s : State) (v : Word) : (s.setTemp v).cpu.fetched = s.cpu.fetched := rfl
@[simp] theorem State.setTemp_temp (s : State) (v : Word) : (s.setTemp v).cpu.temp = v := rfl
@[simp] theorem State.setTemp_addrAbs (s : State) (v : Word) : (s.setTemp v).cpu.addrAbs = s.cpu.addrAbs := rfl
@[simp] theorem State.setTemp_addrRel (s : State) (v : Word) : (s.setTemp v).cpu.addrRel = s.cpu.addrRel := rfl
@[simp] theorem State.setTemp_remaining (s : State) (v : Word) : (s.setTemp v).cpu.remaining = s.cpu.remaining := rfl
@[simp] theorem State.setTemp_totalCycles (s : State) (v : Word) : (s.setTemp v).cpu.totalCycles = s.cpu.totalCycles := rfl
@[simp] theorem State.setTemp_ram (s : State) (v : Word) : (s.setTemp v).ram = s.ram := rfl
@[simp] theorem State.setTemp_cart (s : State) (v : Word) : (s.setTemp v).cart = s.cart := rfl
@[simp] theorem State.setTemp_gfx (s : State) (v : Word) : (s.setTemp v).gfx = s.gfx := rfl
@[simp] theorem State.setTemp_timer (s : State) (v : Word) : (s.setTemp v).timer = s.timer := rfl
@[simp] theorem State.setTemp_params (s : State) (v : Word) : (s.setTemp v).params = s.params := rfl
@[simp] theorem State.setTemp_wasReset (s : State) (v : Word) : (s.setTemp v).wasReset = s.wasReset := rfl
@[simp] theorem State.setTemp_freeCount (s : State) (v : Word) : (s.setTemp v).freeCount = s.freeCount := rfl
@[simp] theorem route_setTemp (s : State) (v : Word) (a : Word) : route (s.setTemp v) a = route s a := rfl
@[simp] theorem peek_setTemp (s : State) (v : Word) (a : Word) : peek (s.setTemp v) a = peek s a := rfl
@[simp] theorem ppuRead_setTemp (s : State) (v : Word) (a : Word) : ppuRead (s.setTemp v) a = ppuRead s a := rfl
@[simp] theorem State.setTemp_flag (s : State) (v : Word) (k : Flag) : (s.setTemp v).flag k = s.flag k := rfl

/-! ### setAddrAbs -/

@[simp] theorem State.setAddrAbs_a (s : State) (v : Word) : (s.setAddrAbs v).cpu.a = s.cpu.a := rfl
@[simp] theorem State.setAddrAbs_x (s : State) (v : Word) : (s.setAddrAbs v).cpu.x = s.cpu.x := rfl
@[simp] theorem State.setAddrAbs_y (s : State) (v : Word) : (s.setAddrAbs v).cpu.y = s.cpu.y := rfl
@[simp] theorem State.setAddrAbs_sp (s : State) (v : Word) : (s.setAddrAbs v).cpu.sp = s.cpu.sp := rfl
@[simp] theorem State.setAddrAbs_pc (s : State) (v : Word) : (s.setAddrAbs v).cpu.pc = s.cpu.pc := rfl
@[simp] theorem State.setAddrAbs_p (s : State) (v : Word) : (s.setAddrAbs v).cpu.p = s.cpu.p := rfl
@[simp] theorem State.setAddrAbs_opcode (s : State) (v : Word) : (s.setAddrAbs v).cpu.opcode = s.cpu.opcode := rfl
@[simp] theorem State.setAddrAbs_fetched (s : State) (v : Word) : (s.setAddrAbs v).cpu.fetched = s.cpu.fetched := rfl
@[simp] theorem State.setAddrAbs_temp (s : State) (v : Word) : (s.setAddrAbs v).cpu.temp = s.cpu.temp := rfl
@[simp] theorem State.setAddrAbs_addrAbs (s : State) (v : Word) : (s.setAddrAbs v).cpu.addrAbs = v := rfl
@[simp] theorem State.setAddrAbs_addrRel (s : State) (v : Word) : (s.setAddrAbs v).cpu.addrRel = s.cpu.addrRel := rfl
@[simp] theorem State.setAddrAbs_remaining (s : State) (v : Word) : (s.setAddrAbs v).cpu.remaining = s.cpu.remaining := rfl
@[simp] theorem State.setAddrAbs_totalCycles (s : State) (v : Word) : (s.setAddrAbs v).cpu.totalCycles = s.cpu.totalCycles := rfl
@[simp] theorem State.setAddrAbs_ram (s : State) (v : Word) : (s.setAddrAbs v).ram = s.ram := rfl
@[simp] theorem State.setAddrAbs_cart (s : State) (v : Word) : (s.setAddrAbs v).cart = s.cart := rfl
@[simp] theorem State.setAddrAbs_gfx (s : State) (v : Word) : (s.setAddrAbs v).gfx = s.gfx := rfl
@[simp] theorem State.setAddrAbs_timer (s : State) (v : Word) : (s.setAddrAbs v).timer = s.timer := rfl
@[simp] theorem State.setAddrAbs_params (s : State) (v : Word) : (s.setAddrAbs v).params = s.params := rfl
@[simp] theorem State.setAddrAbs_wasReset (s : State) (v : Word) : (s.setAddrAbs v).wasReset = s.wasReset := rfl
@[simp] theorem State.setAddrAbs_freeCount (s : State) (v : Word) : (s.setAddrAbs v).freeCount = s.freeCount := rfl
@[simp] theorem route_setAddrAbs (s : State) (v : Word) (a : Word) : route (s.setAddrAbs v) a = route s a := rfl
@[simp] theorem peek_setAddrAbs (s : State) (v : Word) (a : Word) : peek (s.setAddrAbs v) a = peek s a := rfl
@[simp] theorem ppuRead_setAddrAbs (s : State) (v : Word) (a : Word) : ppuRead (s.setAddrAbs v) a = ppuRead s a := rfl
@[simp] theorem State.setAddrAbs_flag (s : State) (v : Word) (k : Flag) : (s.setAddrAbs v).flag k = s.flag k := rfl

/-! ### setAddrRel -/

@[simp] theorem State.setAddrRel_a (s : State) (v : Word) : (s.setAddrRel v).cpu.a = s.cpu.a := rfl
@[simp] theorem State.setAddrRel_x (s : State) (v : Word) : (s.setAddrRel v).cpu.x = s.cpu.x := rfl
@[simp] theorem State.setAddrRel_y (s : State) (v : Word) : (s.setAddrRel v).cpu.y = s.cpu.y := rfl
@[simp] theorem State.setAddrRel_sp (s : State) (v : Word) : (s.setAddrRel v).cpu.sp = s.cpu.sp := rfl
@[simp] theorem State.setAddrRel_pc (s : State) (v : Word) : (s.setAddrRel v).cpu.pc = s.cpu.pc := rfl
@[simp] theorem State.setAddrRel_p (s : State) (v : Word) : (s.setAddrRel v).cpu.p = s.cpu.p := rfl
@[simp] theorem State.setAddrRel_opcode (s : State) (v : Word) : (s.setAddrRel v).cpu.opcode = s.cpu.opcode := rfl
@[simp] theorem State.setAddrRel_fetched (s : State) (v : Word) : (s.setAddrRel v).cpu.fetched = s.cpu.fetched := rfl
@[simp] theorem State.setAddrRel_temp (s : State) (v : Word) : (s.setAddrRel v).cpu.temp = s.cpu.temp := rfl
@[simp] theorem State.setAddrRel_addrAbs (s : State) (v : Word) : (s.setAddrRel v).cpu.addrAbs = s.cpu.addrAbs := rfl
@[simp] theorem State.setAddrRel_addrRel (s : State) (v : Word) : (s.setAddrRel v).cpu.addrRel = v := rfl
@[simp] theorem State.setAddrRel_remaining (s : State) (v : Word) : (s.setAddrRel v).cpu.remaining = s.cpu.remaining := rfl
@[simp] theorem State.setAddrRel_totalCycles (s : State) (v : Word) : (s.setAddrRel v).cpu.totalCycles = s.cpu.totalCycles := rfl
@[simp] theorem State.setAddrRel_ram (s : State) (v : Word) : (s.setAddrRel v).ram = s.ram := rfl
@[simp] theorem State.setAddrRel_cart (s : State) (v : Word) : (s.setAddrRel v).cart = s.cart := rfl
@[simp] theorem State.setAddrRel_gfx (s : State) (v : Word) : (s.setAddrRel v).gfx = s.gfx := rfl
@[simp] theorem State.setAddrRel_timer (s : State) (v : Word) : (s.setAddrRel v).timer = s.timer := rfl
@[simp] theorem State.setAddrRel_params (s : State) (v : Word) : (s.setAddrRel v).params = s.params := rfl
@[simp] theorem State.setAddrRel_wasReset (s : State) (v : Word) : (s.setAddrRel v).wasReset = s.wasReset := rfl
@[simp] theorem State.setAddrRel_freeCount (s : State) (v : Word) : (s.setAddrRel v).freeCount = s.freeCount := rfl
@[simp] theorem route_setAddrRel (s : State) (v : Word) (a : Word) : route (s.setAddrRel v) a = route s a := rfl
@[simp] theorem peek_setAddrRel (s : State) (v : Word) (a : Word) : peek (s.setAddrRel v) a = peek s a := rfl
@[simp] theorem ppuRead_setAddrRel (s : State) (v : Word) (a : Word) : ppuRead (s.setAddrRel v) a = ppuRead s a := rfl
@[simp] theorem State.setAddrRel_flag (s : State) (v : Word) (k : Flag) : (s.setAddrRel v).flag k = s.flag k := rfl

/-! ### setRemaining -/

@[simp] theorem State.setRemaining_a (s : State) (v : Nat) : (s.setRemaining v).cpu.a = s.cpu.a := rfl
@[simp] theorem State.setRemaining_x (s : State) (v : Nat) : (s.setRemaining v).cpu.x = s.cpu.x := rfl
@[simp] theorem State.setRemaining_y (s : State) (v : Nat) : (s.setRemaining v).cpu.y = s.cpu.y := rfl
@[simp] theorem State.setRemaining_sp (s : State) (v : Nat) : (s.setRemaining v).cpu.sp = s.cpu.sp := rfl
@[simp] theorem State.setRemaining_pc (s : State) (v : Nat) : (s.setRemaining v).cpu.pc = s.cpu.pc := rfl
@[simp] theorem State.setRemaining_p (s : State) (v : Nat) : (s.setRemaining v).cpu.p = s.cpu.p := rfl
@[simp] theorem State.setRemaining_opcode (s : State) (v : Nat) : (s.setRemaining v).cpu.opcode = s.cpu.opcode := rfl
@[simp] theorem State.setRemaining_fetched (s : State) (v : Nat) : (s.setRemaining v).cpu.fetched = s.cpu.fetched := rfl
@[simp] theorem State.setRemaining_temp (s : State) (v : Nat) : (s.setRemaining v).cpu.temp = s.cpu.temp := rfl
@[simp] theorem State.setRemaining_addrAbs (s : State) (v : Nat) : (s.setRemaining v).cpu.addrAbs = s.cpu.addrAbs := rfl
@[simp] theorem State.setRemaining_addrRel (s : State) (v : Nat) : (s.setRemaining v).cpu.addrRel = s.cpu.addrRel := rfl
@[simp] theorem State.setRemaining_remaining (s : State) (v : Nat) : (s.setRemaining v).cpu.remaining = v := rfl
@[simp] theorem State.setRemaining_totalCycles (s : State) (v : Nat) : (s.setRemaining v).cpu.totalCycles = s.cpu.totalCycles := rfl
@[simp] theorem State.setRemaining_ram (s : State) (v : Nat) : (s.setRemaining v).ram = s.ram := rfl
@[simp] theorem State.setRemaining_cart (s : State) (v : Nat) : (s.setRemaining v).cart = s.cart := rfl
@[simp] theorem State.setRemaining_gfx (s : State) (v : Nat) : (s.setRemaining v).gfx = s.gfx := rfl
@[simp] theorem State.setRemaining_timer (s : State) (v : Nat) : (s.setRemaining v).timer = s.timer := rfl
@[simp] theorem State.setRemaining_params (s : State) (v : Nat) : (s.setRemaining v).params = s.params := rfl
@[simp] theorem State.setRemaining_wasReset (s : State) (v : Nat) : (s.setRemaining v).wasReset = s.wasReset := rfl
@[simp] theorem State.setRemaining_freeCount (s : State) (v : Nat) : (s.setRemaining v).freeCount = s.freeCount := rfl
@[simp] theorem route_setRemaining (s : State) (v : Nat) (a : Word) : route (s.setRemaining v) a = route s a := rfl
@[simp] theorem peek_setRemaining (s : State) (v : Nat) (a : Word) : peek (s.setRemaining v) a = peek s a := rfl
@[simp] theorem ppuRead_setRemaining (s : State) (v : Nat) (a : Word) : ppuRead (s.setRemaining v) a = ppuRead s a := rfl
@[simp] theorem State.setRemaining_flag (s : State) (v : Nat) (k : Flag) : (s.setRemaining v).flag k = s.flag k := rfl

/-! ### setTotalCycles -/

@[simp] theorem State.setTotalCycles_a (s : State) (v : Nat) : (s.setTotalCycles v).cpu.a = s.cpu.a := rfl
@[simp] theorem State.setTotalCycles_x (s : State) (v : Nat) : (s.setTotalCycles v).cpu.x = s.cpu.x := rfl
@[simp] theorem State.setTotalCycles_y (s : State) (v : Nat) : (s.setTotalCycles v).cpu.y = s.cpu.y := rfl
@[simp] theorem State.setTotalCycles_sp (s : State) (v : Nat) : (s.setTotalCycles v).cpu.sp = s.cpu.sp := rfl
@[simp] theorem State.setTotalCycles_pc (s : State) (v : Nat) : (s.setTotalCycles v).cpu.pc = s.cpu.pc := rfl
@[simp] theorem State.setTotalCycles_p (s : State) (v : Nat) : (s.setTotalCycles v).cpu.p = s.cpu.p := rfl
@[simp] theorem State.setTotalCycles_opcode (s : State) (v : Nat) : (s.setTotalCycles v).cpu.opcode = s.cpu.opcode := rfl
@[simp] theorem State.setTotalCycles_fetched (s : State) (v : Nat) : (s.setTotalCycles v).cpu.fetched = s.cpu.fetched := rfl
@[simp] theorem State.setTotalCycles_temp (s : State) (v : Nat) : (s.setTotalCycles v).cpu.temp = s.cpu.temp := rfl
@[simp] theorem State.setTotalCycles_addrAbs (s : State) (v : Nat) : (s.setTotalCycles v).cpu.addrAbs = s.cpu.addrAbs := rfl
@[simp] theorem State.setTotalCycles_addrRel (s : State) (v : Nat) : (s.setTotalCycles v).cpu.addrRel = s.cpu.addrRel := rfl
@[simp] theorem State.setTotalCycles_remaining (s : State) (v : Nat) : (s.setTotalCycles v).cpu.remaining = s.cpu.remaining := rfl
@[simp] theorem State.setTotalCycles_totalCycles (s : State) (v : Nat) : (s.setTotalCycles v).cpu.totalCycles = v := rfl
@[simp] theorem State.setTotalCycles_ram (s : State) (v : Nat) : (s.setTotalCycles v).ram = s.ram := rfl
@[simp] theorem State.setTotalCycles_cart (s : State) (v : Nat) : (s.setTotalCycles v).cart = s.cart := rfl
@[simp] theorem State.setTotalCycles_gfx (s : State) (v : Nat) : (s.setTotalCycles v).gfx = s.gfx := rfl
@[simp] theorem State.setTotalCycles_timer (s : State) (v : Nat) : (s.setTotalCycles v).timer = s.timer := rfl
@[simp] theorem State.setTotalCycles_params (s : State) (v : Nat) : (s.setTotalCycles v).params = s.params := rfl
@[simp] theorem State.setTotalCycles_wasReset (s : State) (v : Nat) : (s.setTotalCycles v).wasReset = s.wasReset := rfl
@[simp] theorem State.setTotalCycles_freeCount (s : State) (v : Nat) : (s.setTotalCycles v).freeCount = s.freeCount := rfl
@[simp] theorem route_setTotalCycles (s : State) (v : Nat) (a : Word) : route (s.setTotalCycles v) a = route s a := rfl
@[simp] theorem peek_setTotalCycles (s : State) (v : Nat) (a : Word) : peek (s.setTotalCycles v) a = peek s a := rfl
@[simp] theorem ppuRead_setTotalCycles (s : State) (v : Nat) (a : Word) : ppuRead (s.setTotalCycles v) a = ppuRead s a := rfl
@[simp] theorem State.setTotalCycles_flag (s : State) (v : Nat) (k : Flag) : (s.setTotalCycles v).flag k = s.flag k := rfl

/-! ### setRam -/

@[simp] theorem State.setRam_cpu (s : State) (v : Memory) : (s.setRam v).cpu = s.cpu := rfl
@[simp] theorem State.setRam_ram (s : State) (v : Memory) : (s.setRam v).ram = v := rfl
@[simp] theorem State.setRam_cart (s : State) (v : Memory) : (s.setRam v).cart = s.cart := rfl
@[simp] theorem State.setRam_gfx (s : State) (v : Memory) : (s.setRam v).gfx = s.gfx := rfl
@[simp] theorem State.setRam_timer (s : State) (v : Memory) : (s.setRam v).timer = s.timer := rfl
@[simp] theorem State.setRam_params (s : State) (v : Memory) : (s.setRam v).params = s.params := rfl
@[simp] theorem State.setRam_wasReset (s : State) (v : Memory) : (s.setRam v).wasReset = s.wasReset := rfl
@[simp] theorem State.setRam_freeCount (s : State) (v : Memory) : (s.setRam v).freeCount = s.freeCount := rfl
@[simp] theorem State.setRam_flag (s : State) (v : Memory) (k : Flag) : (s.setRam v).flag k = s.flag k := rfl

/-! ### setCart -/

@[simp] theorem State.setCart_cpu (s : State) (v : Option Cartridge) : (s.setCart v).cpu = s.cpu := rfl
@[simp] theorem State.setCart_ram (s : State) (v : Option Cartridge) : (s.setCart v).ram = s.ram := rfl
@[simp] theorem State.setCart_cart (s : State) (v : Option Cartridge) : (s.setCart v).cart = v := rfl
@[simp] theorem State.setCart_gfx (s : State) (v : Option Cartridge) : (s.setCart v).gfx = s.gfx := rfl
@[simp] theorem State.setCart_timer (s : State) (v : Option Cartridge) : (s.setCart v).timer = s.timer := rfl
@[simp] theorem State.setCart_params (s : State) (v : Option Cartridge) : (s.setCart v).params = s.params := rfl
@[simp] theorem State.setCart_wasReset (s : State) (v : Option Cartridge) : (s.setCart v).wasReset = s.wasReset := rfl
@[simp] theorem State.setCart_freeCount (s : State) (v : Option Cartridge) : (s.setCart v).freeCount = s.freeCount := rfl
@[simp] theorem State.setCart_flag (s : State) (v : Option Cartridge) (k : Flag) : (s.setCart v).flag k = s.flag k := rfl

/-! ### setGfx -/

@[simp] theorem State.setGfx_cpu (s : State) (v : Gfx) : (s.setGfx v).cpu = s.cpu := rfl
@[simp] theorem State.setGfx_ram (s : State) (v : Gfx) : (s.setGfx v).ram = s.ram := rfl
@[simp] theorem State.setGfx_cart (s : State) (v : Gfx) : (s.setGfx v).cart = s.cart := rfl
@[simp] theorem State.setGfx_gfx (s : State) (v : Gfx) : (s.setGfx v).gfx = v := rfl
@[simp] theorem State.setGfx_timer (s : State) (v : Gfx) : (s.setGfx v).timer = s.timer := rfl
@[simp] theorem State.setGfx_params (s : State) (v : Gfx) : (s.setGfx v).params = s.params := rfl
@[simp] theorem State.setGfx_wasReset (s : State) (v : Gfx) : (s.setGfx v).wasReset = s.wasReset := rfl
@[simp] theorem State.setGfx_freeCount (s : State) (v : Gfx) : (s.setGfx v).freeCount = s.freeCount := rfl
@[simp] theorem State.setGfx_flag (s : State) (v : Gfx) (k : Flag) : (s.setGfx v).flag k = s.flag k := rfl

/-! ### setTimer -/

@[simp] theorem State.setTimer_cpu (s : State) (v : Timer) : (s.setTimer v).cpu = s.cpu := rfl
@[simp] theorem State.setTimer_ram (s : State) (v : Timer) : (s.setTimer v).ram = s.ram := rfl
@[simp] theorem State.setTimer_cart (s : State) (v : Timer) : (s.setTimer v).cart = s.cart := rfl
@[simp] theorem State.setTimer_gfx (s : State) (v : Timer) : (s.setTimer v).gfx = s.gfx := rfl
@[simp] theorem State.setTimer_timer (s : State) (v : Timer) : (s.setTimer v).timer = v := rfl
@[simp] theorem State.setTimer_params (s : State) (v : Timer) : (s.setTimer v).params = s.params := rfl
@[simp] theorem State.setTimer_wasReset (s : State) (v : Timer) : (s.setTimer v).wasReset = s.wasReset := rfl
@[simp] theorem State.setTimer_freeCount (s : State) (v : Timer) : (s.setTimer v).freeCount = s.freeCount := rfl
@[simp] theorem State.setTimer_flag (s : State) (v : Timer) (k : Flag) : (s.setTimer v).flag k = s.flag k := rfl

/-! ### setWasReset -/

@[simp] theorem State.setWasReset_cpu (s : State) (v : Bool) : (s.setWasReset v).cpu = s.cpu := rfl
@[simp] theorem State.setWasReset_ram (s : State) (v : Bool) : (s.setWasReset v).ram = s.ram := rfl
@[simp] theorem State.setWasReset_cart (s : State) (v : Bool) : (s.setWasReset v).cart = s.cart := rfl
@[simp] theorem State.setWasReset_gfx (s : State) (v : Bool) : (s.setWasReset v).gfx = s.gfx := rfl
@[simp] theorem State.setWasReset_timer (s : State) (v : Bool) : (s.setWasReset v).timer = s.timer := rfl
@[simp] theorem State.setWasReset_params (s : State) (v : Bool) : (s.setWasReset v).params = s.params := rfl
@[simp] theorem State.setWasReset_wasReset (s : State) (v : Bool) : (s.setWasReset v).wasReset = v := rfl
@[simp] theorem State.setWasReset_freeCount (s : State) (v : Bool) : (s.setWasReset v).freeCount = s.freeCount := rfl
@[simp] theorem State.setWasReset_flag (s : State) (v : Bool) (k : Flag) : (s.setWasReset v).flag k = s.flag k := rfl

/-! ### setFreeCount -/

@[simp] theorem State.setFreeCount_cpu (s : State) (v : Nat) : (s.setFreeCount v).cpu = s.cpu := rfl
@[simp] theorem State.setFreeCount_ram (s : State) (v : Nat) : (s.setFreeCount v).ram = s.ram := rfl
@[simp] theorem State.setFreeCount_cart (s : State) (v : Nat) : (s.setFreeCount v).cart = s.cart := rfl
@[simp] theorem State.setFreeCount_gfx (s : State) (v : Nat) : (s.setFreeCount v).gfx = s.gfx := rfl
@[simp] theorem State.setFreeCount_timer (s : State) (v : Nat) : (s.setFreeCount v).timer = s.timer := rfl
@[simp] theorem State.setFreeCount_params (s : State) (v : Nat) : (s.setFreeCount v).params = s.params := rfl
@[simp] theorem State.setFreeCount_wasReset (s : State) (v : Nat) : (s.setFreeCount v).wasReset = s.wasReset := rfl
@[simp] theorem State.setFreeCount_freeCount (s : State) (v : Nat) : (s.setFreeCount v).freeCount = v := rfl
@[simp] theorem State.setFreeCount_flag (s : State) (v : Nat) (k : Flag) : (s.setFreeCount v).flag k = s.flag k := rfl

/-! ### setFlag -/

@[simp] theorem State.setFlag_a (s : State) (f : Flag) (b : Bool) : (s.setFlag f b).cpu.a = s.cpu.a := rfl
@[simp] theorem State.setFlag_x (s : State) (f : Flag) (b : Bool) : (s.setFlag f b).cpu.x = s.cpu.x := rfl
@[simp] theorem State.setFlag_y (s : State) (f : Flag) (b : Bool) : (s.setFlag f b).cpu.y = s.cpu.y := rfl
@[simp] theorem State.setFlag_sp (s : State) (f : Flag) (b : Bool) : (s.setFlag f b).cpu.sp = s.cpu.sp := rfl
@[simp] theorem State.setFlag_pc (s : State) (f : Flag) (b : Bool) : (s.setFlag f b).cpu.pc = s.cpu.pc := rfl
@[simp] theorem State.setFlag_opcode (s : State) (f : Flag) (b : Bool) : (s.setFlag f b).cpu.opcode = s.cpu.opcode := rfl
@[simp] theorem State.setFlag_fetched (s : State) (f : Flag) (b : Bool) : (s.setFlag f b).cpu.fetched = s.cpu.fetched := rfl
@[simp] theorem State.setFlag_temp (s : State) (f : Flag) (b : Bool) : (s.setFlag f b).cpu.temp = s.cpu.temp := rfl
@[simp] theorem State.setFlag_addrAbs (s : State) (f : Flag) (b : Bool) : (s.setFlag f b).cpu.addrAbs = s.cpu.addrAbs := rfl
@[simp] theorem State.setFlag_addrRel (s : State) (f : Flag) (b : Bool) : (s.setFlag f b).cpu.addrRel = s.cpu.addrRel := rfl
@[simp] theorem State.setFlag_remaining (s : State) (f : Flag) (b : Bool) : (s.setFlag f b).cpu.remaining = s.cpu.remaining := rfl
@[simp] theorem State.setFlag_totalCycles (s : State) (f : Flag) (b : Bool) : (s.setFlag f b).cpu.totalCycles = s.cpu.totalCycles := rfl
@[simp] theorem State.setFlag_p (s : State) (f : Flag) (b : Bool) : (s.setFlag f b).cpu.p = Machine.setFlag s.cpu.p f b := rfl
@[simp] theorem State.setFlag_ram (s : State) (f : Flag) (b : Bool) : (s.setFlag f b).ram = s.ram := rfl
@[simp] theorem State.setFlag_cart (s : State) (f : Flag) (b : Bool) : (s.setFlag f b).cart = s.cart := rfl
@[simp] theorem State.setFlag_gfx (s : State) (f : Flag) (b : Bool) : (s.setFlag f b).gfx = s.gfx := rfl
@[simp] theorem State.setFlag_timer (s : State) (f : Flag) (b : Bool) : (s.setFlag f b).timer = s.timer := rfl
@[simp] theorem State.setFlag_params (s : State) (f : Flag) (b : Bool) : (s.setFlag f b).params = s.params := rfl
@[simp] theorem State.setFlag_wasReset (s : State) (f : Flag) (b : Bool) : (s.setFlag f b).wasReset = s.wasReset := rfl
@[simp] theorem State.setFlag_freeCount (s : State) (f : Flag) (b : Bool) : (s.setFlag f b).freeCount = s.freeCount := rfl
@[simp] theorem route_setFlag (s : State) (f : Flag) (b : Bool) (a : Word) : route (s.setFlag f b) a = route s a := rfl
@[simp] theorem peek_setFlag (s : State) (f : Flag) (b : Bool) (a : Word) : peek (s.setFlag f b) a = peek s a := rfl
@[simp] theorem ppuRead_setFlag (s : State) (f : Flag) (b : Bool) (a : Word) : ppuRead (s.setFlag f b) a = ppuRead s a := rfl

end Sys2Proof.Machine
end

