-- ==== Sys2Proof/Laws/Ops.lean ====
section
/-! SUPPORT. One lemma per shared operation that says what it can do: the bus, the graphics space, the stack, the entry
through a vector. Later proofs cite these and do not unfold the operations. -/

namespace Sys2Proof.Machine

/-! ## Byte order -/

@[simp] theorem hiByte_w16 (lo hi : Byte) : hiByte (w16 lo hi) = hi := by
  apply BitVec.eq_of_toNat_eq
  simp only [hiByte, w16, BitVec.extractLsb'_toNat, BitVec.toNat_append]
  rw [Nat.shiftRight_eq_div_pow, Nat.shiftLeft_eq, Nat.or_comm, ← Nat.shiftLeft_eq,
    Nat.or_comm, ← Nat.shiftLeft_add_eq_or_of_lt lo.isLt, Nat.shiftLeft_eq]
  have := lo.isLt; have := hi.isLt
  omega

@[simp] theorem loByte_w16 (lo hi : Byte) : loByte (w16 lo hi) = lo := by
  apply BitVec.eq_of_toNat_eq
  simp only [loByte, w16, BitVec.extractLsb'_toNat, BitVec.toNat_append]
  rw [← Nat.shiftLeft_add_eq_or_of_lt lo.isLt, Nat.shiftLeft_eq, Nat.shiftRight_zero]
  have := lo.isLt
  omega

theorem w16_toNat (lo hi : Byte) : (w16 lo hi).toNat = 256 * hi.toNat + lo.toNat := by
  simp only [w16, BitVec.toNat_append]
  rw [← Nat.shiftLeft_add_eq_or_of_lt lo.isLt, Nat.shiftLeft_eq]
  omega

@[simp] theorem w16_loByte_hiByte (w : Word) : w16 (loByte w) (hiByte w) = w := by
  apply BitVec.eq_of_toNat_eq
  rw [w16_toNat]
  simp only [loByte, hiByte, BitVec.extractLsb'_toNat, Nat.shiftRight_eq_div_pow]
  have := w.isLt
  omega

theorem zext16_toNat (b : Byte) : (zext16 b).toNat = b.toNat := by
  have := b.isLt
  simp only [zext16, BitVec.toNat_setWidth]
  omega

/-! ## The router -/

/-- NROM claims nothing below 0x8000 (R63, R87). -/
theorem nromCpuMap_low (c : Cartridge) (a : Word) (h : a.toNat < 0x8000) : nromCpuMap c a = none := by
  simp only [nromCpuMap]
  rw [if_neg (by omega)]

/-- Below 0x8000 the inner stages of the router decide (R63). -/
theorem route_low (s : State) (a : Word) (h : a.toNat < 0x8000) : route s a = routeInside a := by
  simp only [route]
  cases s.cart <;> simp [nromCpuMap_low _ a h]

theorem route_ram (s : State) (a : Word) (h : a.toNat ≤ 0x1FFF) : route s a = .ram (a.toNat % 2048) := by
  rw [route_low s a (by omega), routeInside, if_pos h]

theorem route_port (s : State) (a : Word) (h : IsPortAddress a) : route s a = .port (portOf a) := by
  obtain ⟨h1, h2⟩ := h
  rw [route_low s a (by omega), routeInside, if_neg (by omega), if_pos h2]

/-- At 0x4000 and above an access reaches the program ROM or the open bus. -/
theorem route_high (s : State) (a : Word) (h : 0x4000 ≤ a.toNat) :
    (∃ offset, route s a = .prg offset) ∨ route s a = .openBus := by
  have hin : routeInside a = .openBus := by
    rw [routeInside, if_neg (by omega), if_neg (by omega)]
  simp only [route]
  cases s.cart.bind fun c => nromCpuMap c a with
  | none => exact .inr hin
  | some k => exact .inl ⟨k, rfl⟩

/-- Every address is in one of three ranges. -/
theorem address_cases (a : Word) : a.toNat ≤ 0x1FFF ∨ IsPortAddress a ∨ 0x4000 ≤ a.toNat := by
  unfold IsPortAddress
  omega

/-- What a peek reads depends on RAM, the cartridge, the register file and the parameters only. -/
theorem peek_congr (s t : State) (a : Word) (h1 : t.ram = s.ram) (h2 : t.cart = s.cart) (h3 : t.gfx = s.gfx)
    (h4 : t.params = s.params) : peek t a = peek s a := by
  simp only [peek, route, portValue, ppuRead, gfxByte, ppuReadTarget, h1, h2, h3, h4]

theorem ppuRead_congr (s t : State) (a : Word) (h2 : t.cart = s.cart)
    (hn : t.gfx.nametable = s.gfx.nametable) (hp : t.gfx.palette = s.gfx.palette)
    (ht : t.gfx.pattern = s.gfx.pattern) (h4 : t.params = s.params) : ppuRead t a = ppuRead s a := by
  simp only [ppuRead, gfxByte, ppuReadTarget, h2, hn, hp, ht, h4]

/-- Outside the port window a peek does not depend on the register file. -/
theorem peek_congr_of_not_port (s t : State) (a : Word) (h : ¬ IsPortAddress a) (h1 : t.ram = s.ram)
    (h2 : t.cart = s.cart) : peek t a = peek s a := by
  rcases address_cases a with h' | h' | h'
  · simp only [peek, route_ram _ a h', h1]
  · exact absurd h' h
  · have hr : route t a = route s a := by simp only [route, h2]
    rcases route_high s a h' with ⟨k, hk⟩ | hk <;> simp only [peek, hr, hk, h2]

theorem peek_ram (s : State) (a : Word) (h : a.toNat ≤ 0x1FFF) : peek s a = Memory.read s.ram (a.toNat % 2048) := by
  simp only [peek, route_ram s a h]

/-! ## Reads -/

@[simp] theorem memRead_fst (s : State) (a : Word) : (memRead s a).1 = peek s a := rfl
@[simp] theorem memRead_snd (s : State) (a : Word) : (memRead s a).2 = afterRead s a := rfl

/-- A read changes nothing but the register file (R61, R73). -/
theorem afterRead_eq_setGfx (s : State) (a : Word) : afterRead s a = s.setGfx (afterRead s a).gfx := by
  simp only [afterRead]
  split <;> rfl

@[simp] theorem afterRead_cpu (s : State) (a : Word) : (afterRead s a).cpu = s.cpu := by rw [afterRead_eq_setGfx]; rfl
@[simp] theorem afterRead_ram (s : State) (a : Word) : (afterRead s a).ram = s.ram := by rw [afterRead_eq_setGfx]; rfl
@[simp] theorem afterRead_cart (s : State) (a : Word) : (afterRead s a).cart = s.cart := by
  rw [afterRead_eq_setGfx]; rfl
@[simp] theorem afterRead_timer (s : State) (a : Word) : (afterRead s a).timer = s.timer := by
  rw [afterRead_eq_setGfx]; rfl
@[simp] theorem afterRead_params (s : State) (a : Word) : (afterRead s a).params = s.params := by
  rw [afterRead_eq_setGfx]; rfl
@[simp] theorem afterRead_wasReset (s : State) (a : Word) : (afterRead s a).wasReset = s.wasReset := by
  rw [afterRead_eq_setGfx]; rfl
@[simp] theorem afterRead_freeCount (s : State) (a : Word) : (afterRead s a).freeCount = s.freeCount := by
  rw [afterRead_eq_setGfx]; rfl
@[simp] theorem afterRead_flag (s : State) (a : Word) (f : Flag) : (afterRead s a).flag f = s.flag f := by
  simp only [State.flag_eq, afterRead_cpu]

/-- The effect of a port read on the register file leaves its memories, CONTROL, MASK and the latch (R421, R422, R424,
R426). -/
theorem portReadEffect_frame (s : State) (k : Port) :
    (portReadEffect s k).nametable = s.gfx.nametable ∧ (portReadEffect s k).palette = s.gfx.palette ∧
    (portReadEffect s k).pattern = s.gfx.pattern ∧ (portReadEffect s k).ctrl = s.gfx.ctrl ∧
    (portReadEffect s k).mask = s.gfx.mask ∧ (portReadEffect s k).latch = s.gfx.latch := by
  cases k <;> simp [portReadEffect, setVBlank]

theorem afterRead_gfx_frame (s : State) (a : Word) :
    (afterRead s a).gfx.nametable = s.gfx.nametable ∧ (afterRead s a).gfx.palette = s.gfx.palette ∧
    (afterRead s a).gfx.pattern = s.gfx.pattern ∧ (afterRead s a).gfx.ctrl = s.gfx.ctrl ∧
    (afterRead s a).gfx.mask = s.gfx.mask ∧ (afterRead s a).gfx.latch = s.gfx.latch := by
  simp only [afterRead]
  split
  · exact portReadEffect_frame s _
  all_goals simp

@[simp] theorem ppuRead_afterRead (s : State) (a b : Word) : ppuRead (afterRead s a) b = ppuRead s b := by
  obtain ⟨h1, h2, h3, -⟩ := afterRead_gfx_frame s a
  exact ppuRead_congr s _ b (by simp) h1 h2 h3 (by simp)

/-- Outside the port window a read has no side effect (R73). -/
theorem afterRead_of_not_port (s : State) (a : Word) (h : ¬ IsPortAddress a) : afterRead s a = s := by
  rcases address_cases a with h' | h' | h'
  · simp only [afterRead, route_ram s a h']
  · exact absurd h' h
  · rcases route_high s a h' with ⟨k, hk⟩ | hk <;> simp only [afterRead, hk]

/-- A zero-page address is no port. -/
theorem zeroPage_not_port (b : Byte) : ¬ IsPortAddress (zext16 b) := by
  have := b.isLt
  unfold IsPortAddress
  rw [zext16_toNat]
  omega

@[simp] theorem afterRead_zeroPage (s : State) (b : Byte) : afterRead s (zext16 b) = s :=
  afterRead_of_not_port s _ (zeroPage_not_port b)

/-- A zero-page pointer read has no side effect and gives the two bytes of the pointer (R69). -/
theorem readZeroPage16_eq (s : State) (p : Byte) :
    readZeroPage16 s p = (w16 (peek s (zext16 p)) (peek s (zext16 (p + 1))), s) := by
  simp [readZeroPage16]

/-! ## Graphics writes -/

/-- A graphics write changes nothing but the graphics memories: of the register file only the three memories, of the
cartridge only `chr` (R96). -/
theorem ppuWrite_frame (s : State) (a : Word) (d : Byte) :
    (ppuWrite s a d).cpu = s.cpu ∧ (ppuWrite s a d).ram = s.ram ∧ (ppuWrite s a d).timer = s.timer ∧
    (ppuWrite s a d).params = s.params ∧ (ppuWrite s a d).wasReset = s.wasReset ∧
    (ppuWrite s a d).freeCount = s.freeCount := by
  simp only [ppuWrite]
  split <;> simp

/-- A CPU write to a port changes nothing but the register file and `chr` (R421, R423, R425, R426). -/
theorem portWrite_frame (s : State) (k : Port) (d : Byte) :
    (portWrite s k d).cpu = s.cpu ∧ (portWrite s k d).ram = s.ram ∧ (portWrite s k d).timer = s.timer ∧
    (portWrite s k d).params = s.params ∧ (portWrite s k d).wasReset = s.wasReset ∧
    (portWrite s k d).freeCount = s.freeCount := by
  have := ppuWrite_frame s s.gfx.v d
  cases k <;> simp only [portWrite] <;> simp [this]

/-- The cartridge after a graphics write: present as before, with the same mapper, banks and program ROM. -/
theorem ppuWrite_cart (s : State) (a : Word) (d : Byte) :
    (ppuWrite s a d).cart = s.cart ∨
    ∃ c chr, s.cart = some c ∧ (ppuWrite s a d).cart = some { c with chr := chr } := by
  simp only [ppuWrite]
  split
  · cases h : s.cart with
    | none => simp
    | some c => exact .inr ⟨c, _, rfl, rfl⟩
  all_goals simp

theorem portWrite_cart (s : State) (k : Port) (d : Byte) :
    (portWrite s k d).cart = s.cart ∨
    ∃ c chr, s.cart = some c ∧ (portWrite s k d).cart = some { c with chr := chr } := by
  cases k <;> simp only [portWrite, State.setGfx_cart, true_or]
  exact ppuWrite_cart s s.gfx.v d

/-- No CPU write can be seen at another address outside the ports through `chr`: the program ROM is the same. -/
theorem peek_portWrite_of_not_port (s : State) (k : Port) (d : Byte) (b : Word) (h : ¬ IsPortAddress b) :
    peek (portWrite s k d) b = peek s b := by
  obtain ⟨-, hram, -⟩ := portWrite_frame s k d
  rcases address_cases b with h' | h' | h'
  · rw [peek_ram _ b h', peek_ram _ b h', hram]
  · exact absurd h' h
  · rcases portWrite_cart s k d with hc | ⟨c, chr, hc, hc'⟩
    · exact peek_congr_of_not_port _ _ b h hram hc
    · have hin : routeInside b = .openBus := by
        rw [routeInside, if_neg (by omega), if_neg (by omega)]
      have hmap : nromCpuMap { c with chr := chr } b = nromCpuMap c b := rfl
      simp only [peek, route, hc, hc', Option.bind_some, hin, hmap]
      cases nromCpuMap c b <;> rfl

/-! ## CPU writes -/

/-- A CPU write changes no CPU register, no timer and no parameter. -/
theorem memWrite_frame (s : State) (a : Word) (v : Byte) :
    (memWrite s a v).cpu = s.cpu ∧ (memWrite s a v).timer = s.timer ∧ (memWrite s a v).params = s.params ∧
    (memWrite s a v).wasReset = s.wasReset ∧ (memWrite s a v).freeCount = s.freeCount := by
  simp only [memWrite]
  split
  · simp
  · have := portWrite_frame s ‹_› v
    simp [this]
  all_goals simp

@[simp] theorem memWrite_cpu (s : State) (a : Word) (v : Byte) : (memWrite s a v).cpu = s.cpu :=
  (memWrite_frame s a v).1
@[simp] theorem memWrite_timer (s : State) (a : Word) (v : Byte) : (memWrite s a v).timer = s.timer :=
  (memWrite_frame s a v).2.1
@[simp] theorem memWrite_params (s : State) (a : Word) (v : Byte) : (memWrite s a v).params = s.params :=
  (memWrite_frame s a v).2.2.1
@[simp] theorem memWrite_wasReset (s : State) (a : Word) (v : Byte) : (memWrite s a v).wasReset = s.wasReset :=
  (memWrite_frame s a v).2.2.2.1
@[simp] theorem memWrite_freeCount (s : State) (a : Word) (v : Byte) : (memWrite s a v).freeCount = s.freeCount :=
  (memWrite_frame s a v).2.2.2.2
@[simp] theorem memWrite_flag (s : State) (a : Word) (v : Byte) (f : Flag) : (memWrite s a v).flag f = s.flag f := by
  simp only [State.flag_eq, memWrite_cpu]

/-- A write in the RAM range writes that RAM byte and nothing else (R64). -/
theorem memWrite_ram (s : State) (a : Word) (v : Byte) (h : a.toNat ≤ 0x1FFF) :
    memWrite s a v = s.setRam (Memory.write s.ram (a.toNat % 2048) v) := by
  simp only [memWrite, route_ram s a h]

/-- A write to a port is the port's write (R65). -/
theorem memWrite_port (s : State) (a : Word) (v : Byte) (h : IsPortAddress a) :
    memWrite s a v = portWrite s (portOf a) v := by
  simp only [memWrite, route_port s a h]

/-- A write at 0x4000 or above changes nothing (R66, R88). -/
theorem memWrite_high (s : State) (a : Word) (v : Byte) (h : 0x4000 ≤ a.toNat) : memWrite s a v = s := by
  rcases route_high s a h with ⟨k, hk⟩ | hk <;> simp only [memWrite, hk]

/-- A CPU write is a byte stored, as the frames say it. -/
theorem memWrite_byteStored (s : State) (a : Word) (v : Byte) (h : Memory.wf s.ram) :
    ByteStored a v s (memWrite s a v) := by
  refine ⟨fun hr => ?_, fun hh => ?_, fun hp => ?_⟩
  · rw [memWrite_ram s a v hr]
    refine ⟨fun b ⟨hb, _, he⟩ => ?_, fun b hb => ?_, fun b => rfl, rfl, rfl⟩
    · rw [peek_ram _ b hb, State.setRam_ram, he, Memory.read_write_same _ _ _ h]
    · by_cases hbr : b.toNat ≤ 0x1FFF
      · rw [peek_ram _ b hbr, peek_ram _ b hbr, State.setRam_ram, Memory.read_write_other]
        intro he
        exact hb ⟨hbr, hr, he⟩
      · have e : route (s.setRam (Memory.write s.ram (a.toNat % 2048) v)) b = route s b := rfl
        have hnr : ∀ k, route s b ≠ .ram k := by
          intro k
          rcases address_cases b with h' | h' | h'
          · exact absurd h' hbr
          · rw [route_port s b h']; simp
          · rcases route_high s b h' with ⟨j, hj⟩ | hj <;> rw [hj] <;> simp
        simp only [peek, e]
        cases hroute : route s b with
        | ram k => exact absurd hroute (hnr k)
        | prg k => rfl
        | port k => rfl
        | openBus => rfl
  · rw [memWrite_high s a v hh]
    exact ⟨fun _ => rfl, fun _ => rfl, rfl, rfl, rfl⟩
  · rw [memWrite_port s a v hp]
    exact ⟨fun b hb => peek_portWrite_of_not_port s _ v b hb, (portWrite_frame s _ v).2.1, rfl, rfl⟩

/-! ## The stack -/

theorem stackAddress_toNat (sp : Byte) : (stackAddress sp).toNat = 256 + sp.toNat := by
  have := sp.isLt
  have h := zext16_toNat sp
  simp only [stackAddress]
  bv_omega

/-- A push writes the stack page of RAM and SP (R270). -/
theorem push_eq (v : Byte) (s : State) :
    push v s = (s.setRam (Memory.write s.ram (256 + s.cpu.sp.toNat) v)).setSP (s.cpu.sp - 1) := by
  have := s.cpu.sp.isLt
  simp only [push]
  rw [memWrite_ram _ _ _ (by rw [stackAddress_toNat]; omega), stackAddress_toNat, Nat.mod_eq_of_lt (by omega)]
  rfl

/-- A pull reads the stack page of RAM and writes SP; it has no other effect (R271). -/
theorem pull_eq (s : State) :
    pull s = (Memory.read s.ram (256 + (s.cpu.sp + 1).toNat), s.setSP (s.cpu.sp + 1)) := by
  have := (s.cpu.sp + 1).isLt
  have hnp : ¬ IsPortAddress (stackAddress (s.cpu.sp + 1)) := by
    unfold IsPortAddress
    rw [stackAddress_toNat]
    omega
  simp only [pull, memRead, State.setSP_sp, afterRead_of_not_port _ _ hnp, peek_setSP]
  rw [peek_ram _ _ (by rw [stackAddress_toNat]; omega), stackAddress_toNat, Nat.mod_eq_of_lt (by omega)]

/-- The RAM after the two pushes of a 16-bit value. -/
def ramAfterPushWord (m : Memory) (sp : Byte) (w : Word) : Memory :=
  Memory.write (Memory.write m (256 + sp.toNat) (hiByte w)) (256 + (sp - 1).toNat) (loByte w)

theorem pushWord_eq (w : Word) (s : State) :
    pushWord w s = (s.setRam (ramAfterPushWord s.ram s.cpu.sp w)).setSP (s.cpu.sp - 2) := by
  have : s.cpu.sp - 1 - 1 = s.cpu.sp - 2 := by bv_omega
  simp only [pushWord, push_eq, State.setSP_sp, State.setSP_ram, State.setRam_ram, this]
  rfl

theorem pullWord_eq (s : State) :
    pullWord s =
      (w16 (Memory.read s.ram (256 + (s.cpu.sp + 1).toNat)) (Memory.read s.ram (256 + (s.cpu.sp + 2).toNat)),
       s.setSP (s.cpu.sp + 2)) := by
  have : s.cpu.sp + 1 + 1 = s.cpu.sp + 2 := by bv_omega
  simp only [pullWord, pull_eq, State.setSP_sp, State.setSP_ram, this]
  rfl

/-- A 16-bit read at 0x4000 or above, where the vectors lie, has no side effect. -/
theorem read16_high (s : State) (a : Word) (h : 0x4000 ≤ a.toNat) (h' : a.toNat < 0xFFFF) :
    read16 s a = (w16 (peek s a) (peek s (a + 1)), s) := by
  have hn : ∀ b : Word, 0x4000 ≤ b.toNat → ¬ IsPortAddress b := fun b hb hp => by
    have := hp.2
    omega
  have h1 : (a + 1).toNat = a.toNat + 1 := by bv_omega
  simp only [read16, memRead_fst, memRead_snd, afterRead_of_not_port s a (hn a h),
    afterRead_of_not_port s (a + 1) (hn _ (by omega))]

/-- What every entry through a vector does: three stack bytes, SP down by 3, I set, PC from the vector, nothing else
(60 R410, R413; 43 R294). -/
theorem enterHandler_eq (pushed : Byte) (vector : Word) (s : State) (h : 0x4000 ≤ vector.toNat)
    (h' : vector.toNat < 0xFFFF) :
    enterHandler pushed vector s =
      ((((s.setRam (Memory.write (ramAfterPushWord s.ram s.cpu.sp s.cpu.pc) (256 + (s.cpu.sp - 2).toNat) pushed)).setSP
        (s.cpu.sp - 3)).setFlag .i true).setPC (w16 (peek s vector) (peek s (vector + 1)))) := by
  have h3 : s.cpu.sp - 2 - 1 = s.cpu.sp - 3 := by bv_omega
  have hn : ∀ b : Word, 0x4000 ≤ b.toNat → ¬ IsPortAddress b := fun b hb hp => by
    have := hp.2
    omega
  have h1 : (vector + 1).toNat = vector.toNat + 1 := by bv_omega
  have hpk : ∀ (m : Memory) (b : Word), 0x4000 ≤ b.toNat → peek (s.setRam m) b = peek s b := by
    intro m b hb
    rcases route_high s b hb with ⟨k, hk⟩ | hk
    · have : route (s.setRam m) b = .prg k := hk
      simp only [peek, this, hk]
      rfl
    · have : route (s.setRam m) b = .openBus := hk
      simp only [peek, this, hk]
  simp only [enterHandler, pushWord_eq, push_eq, read16_high _ _ h h', State.setSP_sp, State.setSP_ram,
    State.setRam_ram, h3, peek_setFlag, peek_setSP]
  have e : ∀ (m m' : Memory) (sp : Byte) (b : Word), peek (((s.setRam m).setSP sp).setRam m') b = peek (s.setRam m') b :=
    fun _ _ _ _ => rfl
  rw [e, e, hpk _ _ h, hpk _ _ (by omega)]
  rfl

/-- RTI's effect in closed form (43 R293). -/
theorem returnFromInterrupt_eq (s : State) :
    returnFromInterrupt s =
      ((s.setSP (s.cpu.sp + 3)).setP (returnedStatus (Memory.read s.ram (256 + (s.cpu.sp + 1).toNat)))).setPC
        (w16 (Memory.read s.ram (256 + (s.cpu.sp + 2).toNat)) (Memory.read s.ram (256 + (s.cpu.sp + 3).toNat))) := by
  have h2 : s.cpu.sp + 1 + 1 = s.cpu.sp + 2 := by bv_omega
  have h3 : s.cpu.sp + 1 + 2 = s.cpu.sp + 3 := by bv_omega
  simp only [returnFromInterrupt, pull_eq, pullWord_eq, State.setP_sp, State.setP_ram, State.setSP_sp, State.setSP_ram,
    h2, h3]
  rfl

end Sys2Proof.Machine
end

