-- ==== Sys2Proof/Laws/Operands.lean ====
section
/-! SUPPORT. What resolving a mode, reading an operand and the shapes of execution can do: each is its input state with
the listed fields written and nothing else. -/

namespace Sys2Proof.Machine

/-! ## The start of an instruction -/

@[simp] theorem start_a (i : Instr) (s : State) : (start i s).cpu.a = s.cpu.a := rfl
@[simp] theorem start_x (i : Instr) (s : State) : (start i s).cpu.x = s.cpu.x := rfl
@[simp] theorem start_y (i : Instr) (s : State) : (start i s).cpu.y = s.cpu.y := rfl
@[simp] theorem start_sp (i : Instr) (s : State) : (start i s).cpu.sp = s.cpu.sp := rfl
@[simp] theorem start_pc (i : Instr) (s : State) : (start i s).cpu.pc = s.cpu.pc := rfl
@[simp] theorem start_p (i : Instr) (s : State) : (start i s).cpu.p = s.cpu.p := rfl
@[simp] theorem start_opcode (i : Instr) (s : State) : (start i s).cpu.opcode = s.cpu.opcode := rfl
@[simp] theorem start_totalCycles (i : Instr) (s : State) : (start i s).cpu.totalCycles = s.cpu.totalCycles := rfl
@[simp] theorem start_remaining (i : Instr) (s : State) :
    (start i s).cpu.remaining = baseCycles s.params i := rfl
@[simp] theorem start_ram (i : Instr) (s : State) : (start i s).ram = s.ram := rfl
@[simp] theorem start_cart (i : Instr) (s : State) : (start i s).cart = s.cart := rfl
@[simp] theorem start_gfx (i : Instr) (s : State) : (start i s).gfx = s.gfx := rfl
@[simp] theorem start_timer (i : Instr) (s : State) : (start i s).timer = s.timer := rfl
@[simp] theorem start_params (i : Instr) (s : State) : (start i s).params = s.params := rfl
@[simp] theorem start_wasReset (i : Instr) (s : State) : (start i s).wasReset = s.wasReset := rfl
@[simp] theorem start_flag (i : Instr) (s : State) (f : Flag) : (start i s).flag f = s.flag f := rfl
@[simp] theorem peek_start (i : Instr) (s : State) (a : Word) : peek (start i s) a = peek s a := rfl
@[simp] theorem ppuRead_start (i : Instr) (s : State) (a : Word) : ppuRead (start i s) a = ppuRead s a := rfl

/-! ## The scratch field `temp` -/

section
variable (s : State)

@[simp] theorem writeTemp_a : (writeTemp s).cpu.a = s.cpu.a := rfl
@[simp] theorem writeTemp_x : (writeTemp s).cpu.x = s.cpu.x := rfl
@[simp] theorem writeTemp_y : (writeTemp s).cpu.y = s.cpu.y := rfl
@[simp] theorem writeTemp_sp : (writeTemp s).cpu.sp = s.cpu.sp := rfl
@[simp] theorem writeTemp_pc : (writeTemp s).cpu.pc = s.cpu.pc := rfl
@[simp] theorem writeTemp_p : (writeTemp s).cpu.p = s.cpu.p := rfl
@[simp] theorem writeTemp_opcode : (writeTemp s).cpu.opcode = s.cpu.opcode := rfl
@[simp] theorem writeTemp_fetched : (writeTemp s).cpu.fetched = s.cpu.fetched := rfl
@[simp] theorem writeTemp_addrAbs : (writeTemp s).cpu.addrAbs = s.cpu.addrAbs := rfl
@[simp] theorem writeTemp_addrRel : (writeTemp s).cpu.addrRel = s.cpu.addrRel := rfl
@[simp] theorem writeTemp_remaining : (writeTemp s).cpu.remaining = s.cpu.remaining := rfl
@[simp] theorem writeTemp_totalCycles : (writeTemp s).cpu.totalCycles = s.cpu.totalCycles := rfl
@[simp] theorem writeTemp_ram : (writeTemp s).ram = s.ram := rfl
@[simp] theorem writeTemp_cart : (writeTemp s).cart = s.cart := rfl
@[simp] theorem writeTemp_gfx : (writeTemp s).gfx = s.gfx := rfl
@[simp] theorem writeTemp_timer : (writeTemp s).timer = s.timer := rfl
@[simp] theorem writeTemp_params : (writeTemp s).params = s.params := rfl
@[simp] theorem writeTemp_wasReset : (writeTemp s).wasReset = s.wasReset := rfl
@[simp] theorem writeTemp_flag (f : Flag) : (writeTemp s).flag f = s.flag f := rfl
@[simp] theorem peek_writeTemp (a : Word) : peek (writeTemp s) a = peek s a := rfl
@[simp] theorem ppuRead_writeTemp (a : Word) : ppuRead (writeTemp s) a = ppuRead s a := rfl

end

/-! ## Resolve -/

/-- Resolving a mode writes the two address scratch fields and, in mode IND alone, lets the pointer reads act on the
register file. -/
theorem resolve_eq (o : Operand) (s : State) :
    (resolve o s).1 =
      ((s.setGfx (resolve o s).1.gfx).setAddrAbs (resolve o s).1.cpu.addrAbs).setAddrRel (resolve o s).1.cpu.addrRel := by
  cases o with
  | ind ptr =>
    simp only [resolve, memRead_snd]
    rw [afterRead_eq_setGfx (afterRead s ptr), afterRead_eq_setGfx s ptr]
    rfl
  | izx z => simp only [resolve, readZeroPage16_eq]; rfl
  | izy z => simp only [resolve, readZeroPage16_eq]; rfl
  | _ => rfl

/-- No mode but IND touches the register file when it resolves. -/
theorem resolve_gfx_of_not_ind (o : Operand) (s : State) (h : o.mode ≠ .ind) : (resolve o s).1.gfx = s.gfx := by
  cases o with
  | ind ptr => exact absurd rfl h
  | izx z => simp only [resolve, readZeroPage16_eq]; rfl
  | izy z => simp only [resolve, readZeroPage16_eq]; rfl
  | _ => rfl

theorem resolve_gfx_frame (o : Operand) (s : State) :
    (resolve o s).1.gfx.nametable = s.gfx.nametable ∧ (resolve o s).1.gfx.palette = s.gfx.palette ∧
    (resolve o s).1.gfx.pattern = s.gfx.pattern := by
  by_cases h : o.mode = .ind
  · cases o <;> simp only [Operand.mode, reduceCtorEq] at h
    rename_i ptr
    obtain ⟨a1, a2, a3, -⟩ := afterRead_gfx_frame s ptr
    obtain ⟨b1, b2, b3, -⟩ := afterRead_gfx_frame (afterRead s ptr) (indirectHighAddress ptr)
    simp only [resolve, memRead_snd, State.setAddrAbs_gfx]
    exact ⟨b1.trans a1, b2.trans a2, b3.trans a3⟩
  · rw [resolve_gfx_of_not_ind o s h]
    exact ⟨rfl, rfl, rfl⟩

section
variable (i : Instr) (s : State)

@[simp] theorem resolved_a : (resolved i s).1.cpu.a = s.cpu.a := by rw [resolved, resolve_eq]; rfl
@[simp] theorem resolved_x : (resolved i s).1.cpu.x = s.cpu.x := by rw [resolved, resolve_eq]; rfl
@[simp] theorem resolved_y : (resolved i s).1.cpu.y = s.cpu.y := by rw [resolved, resolve_eq]; rfl
@[simp] theorem resolved_sp : (resolved i s).1.cpu.sp = s.cpu.sp := by rw [resolved, resolve_eq]; rfl
@[simp] theorem resolved_pc : (resolved i s).1.cpu.pc = s.cpu.pc := by rw [resolved, resolve_eq]; rfl
@[simp] theorem resolved_p : (resolved i s).1.cpu.p = s.cpu.p := by rw [resolved, resolve_eq]; rfl
@[simp] theorem resolved_opcode : (resolved i s).1.cpu.opcode = s.cpu.opcode := by rw [resolved, resolve_eq]; rfl
@[simp] theorem resolved_totalCycles : (resolved i s).1.cpu.totalCycles = s.cpu.totalCycles := by
  rw [resolved, resolve_eq]; rfl
@[simp] theorem resolved_remaining : (resolved i s).1.cpu.remaining = baseCycles s.params i := by
  rw [resolved, resolve_eq]; rfl
@[simp] theorem resolved_ram : (resolved i s).1.ram = s.ram := by rw [resolved, resolve_eq]; rfl
@[simp] theorem resolved_cart : (resolved i s).1.cart = s.cart := by rw [resolved, resolve_eq]; rfl
@[simp] theorem resolved_timer : (resolved i s).1.timer = s.timer := by rw [resolved, resolve_eq]; rfl
@[simp] theorem resolved_params : (resolved i s).1.params = s.params := by rw [resolved, resolve_eq]; rfl
@[simp] theorem resolved_wasReset : (resolved i s).1.wasReset = s.wasReset := by rw [resolved, resolve_eq]; rfl
@[simp] theorem resolved_flag (f : Flag) : (resolved i s).1.flag f = s.flag f := by
  rw [State.flag_eq, resolved_p]; rfl

/-- No instruction but `JMP (aaaa)` touches the register file when its mode resolves. -/
theorem resolved_gfx (h : i.operand.mode ≠ .ind) : (resolved i s).1.gfx = s.gfx := by
  rw [resolved, resolve_gfx_of_not_ind _ _ h]; rfl

/-- So memory reads as before. -/
theorem resolved_memoryKept (h : i.operand.mode ≠ .ind) : MemoryKept s (resolved i s).1 := by
  have hg := resolved_gfx i s h
  exact ⟨fun a => peek_congr _ _ a (by simp) (by simp) hg (by simp),
    fun a => ppuRead_congr _ _ a (by simp) (by rw [hg]) (by rw [hg]) (by rw [hg]) (by simp), by simp, by simp, hg⟩

end

/-! ## The operand -/

/-- Reading an operand writes `fetched` and lets the read act on the register file. -/
theorem readOperand_eq (o : Operand) (s : State) :
    (readOperand o s).2 = (s.setGfx (readOperand o s).2.gfx).setFetched (readOperand o s).1 := by
  cases o <;> simp only [readOperand, memRead_snd, memRead_fst] <;> first
    | rfl
    | (rw [afterRead_eq_setGfx]; rfl)

theorem readOperand_gfx_frame (o : Operand) (s : State) :
    (readOperand o s).2.gfx.nametable = s.gfx.nametable ∧ (readOperand o s).2.gfx.palette = s.gfx.palette ∧
    (readOperand o s).2.gfx.pattern = s.gfx.pattern := by
  obtain ⟨h1, h2, h3, -⟩ := afterRead_gfx_frame s s.cpu.addrAbs
  cases o <;> simp [readOperand, h1, h2, h3]

section
variable (i : Instr) (s : State)

@[simp] theorem loaded_a : (loaded i s).2.cpu.a = s.cpu.a := by rw [loaded, readOperand_eq]; simp
@[simp] theorem loaded_x : (loaded i s).2.cpu.x = s.cpu.x := by rw [loaded, readOperand_eq]; simp
@[simp] theorem loaded_y : (loaded i s).2.cpu.y = s.cpu.y := by rw [loaded, readOperand_eq]; simp
@[simp] theorem loaded_sp : (loaded i s).2.cpu.sp = s.cpu.sp := by rw [loaded, readOperand_eq]; simp
@[simp] theorem loaded_pc : (loaded i s).2.cpu.pc = s.cpu.pc := by rw [loaded, readOperand_eq]; simp
@[simp] theorem loaded_p : (loaded i s).2.cpu.p = s.cpu.p := by rw [loaded, readOperand_eq]; simp
@[simp] theorem loaded_opcode : (loaded i s).2.cpu.opcode = s.cpu.opcode := by rw [loaded, readOperand_eq]; simp
@[simp] theorem loaded_totalCycles : (loaded i s).2.cpu.totalCycles = s.cpu.totalCycles := by
  rw [loaded, readOperand_eq]; simp
@[simp] theorem loaded_remaining : (loaded i s).2.cpu.remaining = baseCycles s.params i := by
  rw [loaded, readOperand_eq]; simp
@[simp] theorem loaded_addrAbs : (loaded i s).2.cpu.addrAbs = effectiveAddress i s := by
  rw [loaded, readOperand_eq]; rfl
@[simp] theorem loaded_ram : (loaded i s).2.ram = s.ram := by rw [loaded, readOperand_eq]; simp
@[simp] theorem loaded_cart : (loaded i s).2.cart = s.cart := by rw [loaded, readOperand_eq]; simp
@[simp] theorem loaded_timer : (loaded i s).2.timer = s.timer := by rw [loaded, readOperand_eq]; simp
@[simp] theorem loaded_params : (loaded i s).2.params = s.params := by rw [loaded, readOperand_eq]; simp
@[simp] theorem loaded_wasReset : (loaded i s).2.wasReset = s.wasReset := by rw [loaded, readOperand_eq]; simp
@[simp] theorem loaded_flag (f : Flag) : (loaded i s).2.flag f = s.flag f := by rw [State.flag_eq, loaded_p]; rfl

theorem loaded_gfx_frame :
    (loaded i s).2.gfx.nametable = s.gfx.nametable ∧ (loaded i s).2.gfx.palette = s.gfx.palette ∧
    (loaded i s).2.gfx.pattern = s.gfx.pattern := by
  obtain ⟨a1, a2, a3⟩ := resolve_gfx_frame i.operand (start i s)
  obtain ⟨b1, b2, b3⟩ := readOperand_gfx_frame i.operand (resolved i s).1
  exact ⟨b1.trans a1, b2.trans a2, b3.trans a3⟩

/-- A state that differs from the loaded one in CPU registers only keeps every byte. -/
theorem bytesKept_of_loaded (t : State) (h1 : t.ram = s.ram) (h2 : t.cart = s.cart)
    (h3 : t.gfx = (loaded i s).2.gfx) (h4 : t.params = s.params) : BytesKept s t := by
  obtain ⟨g1, g2, g3⟩ := loaded_gfx_frame i s
  refine ⟨fun a ha => peek_congr_of_not_port _ _ a ha h1 h2,
    fun a => ppuRead_congr _ _ a h2 (by rw [h3, g1]) (by rw [h3, g2]) (by rw [h3, g3]) h4, h1, h2, ?_, ?_, ?_⟩ <;>
    rw [h3]
  exacts [g1, g2, g3]

end

/-! ## The extra cycle -/

section
variable (m o : Bool) (s : State)

/-- The extra cycle touches `remaining` only (R142). -/
theorem addExtraCycle_eq :
    addExtraCycle m o s = s.setRemaining (s.cpu.remaining + if m && o then 1 else 0) := by
  simp only [addExtraCycle]
  cases m && o <;> rfl

@[simp] theorem addExtraCycle_a : (addExtraCycle m o s).cpu.a = s.cpu.a := by rw [addExtraCycle_eq]; rfl
@[simp] theorem addExtraCycle_x : (addExtraCycle m o s).cpu.x = s.cpu.x := by rw [addExtraCycle_eq]; rfl
@[simp] theorem addExtraCycle_y : (addExtraCycle m o s).cpu.y = s.cpu.y := by rw [addExtraCycle_eq]; rfl
@[simp] theorem addExtraCycle_sp : (addExtraCycle m o s).cpu.sp = s.cpu.sp := by rw [addExtraCycle_eq]; rfl
@[simp] theorem addExtraCycle_pc : (addExtraCycle m o s).cpu.pc = s.cpu.pc := by rw [addExtraCycle_eq]; rfl
@[simp] theorem addExtraCycle_p : (addExtraCycle m o s).cpu.p = s.cpu.p := by rw [addExtraCycle_eq]; rfl
@[simp] theorem addExtraCycle_opcode : (addExtraCycle m o s).cpu.opcode = s.cpu.opcode := by
  rw [addExtraCycle_eq]; rfl
@[simp] theorem addExtraCycle_totalCycles : (addExtraCycle m o s).cpu.totalCycles = s.cpu.totalCycles := by
  rw [addExtraCycle_eq]; rfl
@[simp] theorem addExtraCycle_remaining :
    (addExtraCycle m o s).cpu.remaining = s.cpu.remaining + if m && o then 1 else 0 := by rw [addExtraCycle_eq]; rfl
@[simp] theorem addExtraCycle_ram : (addExtraCycle m o s).ram = s.ram := by rw [addExtraCycle_eq]; rfl
@[simp] theorem addExtraCycle_cart : (addExtraCycle m o s).cart = s.cart := by rw [addExtraCycle_eq]; rfl
@[simp] theorem addExtraCycle_gfx : (addExtraCycle m o s).gfx = s.gfx := by rw [addExtraCycle_eq]; rfl
@[simp] theorem addExtraCycle_timer : (addExtraCycle m o s).timer = s.timer := by rw [addExtraCycle_eq]; rfl
@[simp] theorem addExtraCycle_params : (addExtraCycle m o s).params = s.params := by rw [addExtraCycle_eq]; rfl
@[simp] theorem addExtraCycle_wasReset : (addExtraCycle m o s).wasReset = s.wasReset := by rw [addExtraCycle_eq]; rfl
@[simp] theorem addExtraCycle_flag (f : Flag) : (addExtraCycle m o s).flag f = s.flag f := by
  rw [addExtraCycle_eq]; rfl

/-- An operation that returns 0 never pays the extra cycle (R142, R159). -/
@[simp] theorem addExtraCycle_false : addExtraCycle m false s = s := by simp [addExtraCycle]

end

/-! ## The shapes of execution -/

/-- A store in closed form: the resolved state with one CPU write. -/
theorem storeInstr_eq (i : Instr) (v : State → Byte) (s : State) :
    storeInstr i v s =
      memWrite (writeTemp (resolved i s).1) (effectiveAddress i s) (v (writeTemp (resolved i s).1)) := by
  simp [storeInstr, effectiveAddress]

/-- An instruction without an operand read in closed form. -/
theorem plainInstr_eq (i : Instr) (f : State → State) (s : State) :
    plainInstr i f s = f (writeTemp (resolved i s).1) := by
  simp [plainInstr]

/-- A read-modify-write instruction in closed form. -/
theorem modifyInstr_eq (i : Instr) (result : Byte → State → Byte) (flags : Byte → State → State) (s : State) :
    modifyInstr i result flags s =
      writeback i.operand (result (loaded i s).1 (writeTemp (loaded i s).2))
        (flags (loaded i s).1 (writeTemp (loaded i s).2)) := by
  simp [modifyInstr]

/-- An implied instruction resolves to its start: no address, no read. -/
theorem resolved_imp (i : Instr) (s : State) (h : i.operand = .imp) : resolved i s = (start i s, false) := by
  simp [resolved, h, resolve]

/-- An implied instruction without an effect sets its cycle count and nothing else. -/
theorem idleInstr_imp (i : Instr) (s : State) (h : i.operand = .imp) :
    idleInstr i s = s.setRemaining (baseCycles s.params i) := by
  rw [idleInstr, resolved_imp i s h, addExtraCycle_false, start]

end Sys2Proof.Machine
end

