-- ==== Sys2Proof/Laws/Invariant.lean ====
section
/-! SUPPORT. Every operation on memory, the register file, the timer and the cartridge keeps the invariant; in
particular every memory operation keeps the canonical form. -/

namespace Sys2Proof.Machine

/-! ## The register file -/

theorem setVBlank_status (g : Gfx) (v : Bool) (h : g.status &&& 0x7F = 0) : (setVBlank g v).status &&& 0x7F = 0 := by
  apply BitVec.eq_of_getLsbD_eq
  intro k hk
  have hbit := congrArg (fun b : Byte => b.getLsbD k) h
  simp only [BitVec.getLsbD_and] at hbit ⊢
  simp only [setVBlank, setBit_getLsbD _ _ _ _ hk]
  by_cases h7 : k = 7
  · subst h7; simp
  · simpa [h7] using hbit

theorem Gfx.Inv.setVBlank {g : Gfx} (h : g.Inv) (v : Bool) : (setVBlank g v).Inv :=
  { h with statusBits := setVBlank_status g v h.statusBits }

theorem portReadEffect_inv (s : State) (k : Port) (h : s.gfx.Inv) : (portReadEffect s k).Inv := by
  cases k <;> simp only [portReadEffect] <;> first
    | exact h
    | exact h.setVBlank false
    | exact { h with }

theorem writePpuAddress_inv (g : Gfx) (d : Byte) (h : g.Inv) : (writePpuAddress g d).Inv := { h with }

theorem vblankEvents_inv (t : Timer) (g : Gfx) (h : g.Inv) : (vblankEvents t g).Inv := by
  simp only [vblankEvents]
  split
  · exact h.setVBlank false
  · split
    · exact h.setVBlank true
    · exact h

theorem advanceTimer_inv (t : Timer) (h : t.Inv) : (advanceTimer t).Inv := by
  obtain ⟨h1, h2, h3⟩ := h
  simp only [advanceTimer]
  split
  · split
    · exact ⟨by simp, by simp, by simp⟩
    · exact ⟨by simp only; omega, by simp only; omega, by simp⟩
  · exact ⟨h1, h2, by simp only; omega⟩

/-! ## Keys of the graphics memories -/

theorem nametableKey_lt (p : Params) (a : Word) : nametableKey p a < 2048 := by
  have := Nat.mod_lt a.toNat (show 0 < 1024 by decide)
  simp only [nametableKey]
  cases nametableSelect p a <;> simp <;> omega

theorem paletteIndex_lt (a : Word) : paletteIndex a < 32 := by
  have := Nat.mod_lt a.toNat (show 0 < 32 by decide)
  simp only [paletteIndex]
  split <;> omega

/-- No palette index is one of the four aliased entries (R100). -/
theorem paletteIndex_not_alias (a : Word) : paletteIndex a ∉ [0x10, 0x14, 0x18, 0x1C] := by
  simp only [paletteIndex, List.mem_cons, List.not_mem_nil, or_false]
  split <;> omega

/-! ## Graphics writes -/

theorem ppuWriteTarget_chr (s : State) (a : Word) (k : Nat) (h : ppuWriteTarget s a = .chr k) :
    k < 8192 ∧ ∀ c, s.cart = some c → c.chrIsRam = true := by
  simp only [ppuWriteTarget] at h
  cases hc : s.cart with
  | none =>
    simp only [hc, Option.bind_none, internalTarget] at h
    split at h <;> try split at h
    all_goals cases h
  | some c =>
    simp only [hc, Option.bind_some, nromPpuWriteMap] at h
    split at h
    · rename_i offset he
      cases h
      split at he
      · rename_i hcond
        simp only [Bool.and_eq_true, decide_eq_true_eq] at hcond
        cases he
        refine ⟨by omega, fun d hd => ?_⟩
        cases hd
        exact hcond.2
      · cases he
    · simp only [internalTarget] at h
      split at h <;> try split at h
      all_goals cases h

theorem internalTarget_pattern_lt (p : Params) (a : Word) (k : Nat) (h : internalTarget p a = .pattern k) :
    k < 8192 := by
  simp only [internalTarget] at h
  split at h
  · cases h; omega
  · split at h <;> cases h

theorem internalTarget_nametable_lt (p : Params) (a : Word) (k : Nat) (h : internalTarget p a = .nametable k) :
    k < 2048 := by
  simp only [internalTarget] at h
  split at h
  · cases h
  · split at h <;> cases h
    exact nametableKey_lt p a

theorem internalTarget_palette_lt (p : Params) (a : Word) (k : Nat) (h : internalTarget p a = .palette k) :
    k < 32 ∧ k ∉ [0x10, 0x14, 0x18, 0x1C] := by
  simp only [internalTarget] at h
  split at h
  · cases h
  · split at h <;> cases h
    exact ⟨paletteIndex_lt a, paletteIndex_not_alias a⟩

/-- A write that does not reach the cartridge reaches the internal memory of its address (R96). -/
theorem ppuWriteTarget_internal (s : State) (a : Word) (h : ∀ k, ppuWriteTarget s a ≠ .chr k) :
    ppuWriteTarget s a = internalTarget s.params (graphicsAddress a) := by
  simp only [ppuWriteTarget] at h ⊢
  split
  · rename_i offset he
    rw [he] at h
    exact absurd rfl (h offset)
  · rfl

theorem ppuWrite_inv (s : State) (a : Word) (d : Byte) (h : s.Inv) : (ppuWrite s a d).Inv := by
  obtain ⟨h1, h2, h3, h4, h5⟩ := h
  simp only [ppuWrite]
  cases ht : ppuWriteTarget s a with
  | chr k =>
    obtain ⟨hk, hram⟩ := ppuWriteTarget_chr s a k ht
    refine ⟨h1, h2, fun c hc => ?_, h4, h5⟩
    cases hcart : s.cart with
    | none => simp [hcart] at hc
    | some e =>
      simp only [State.setCart_cart, hcart, Option.map_some, Option.some.injEq] at hc
      subst hc
      obtain ⟨i1, i2, i3, i4, i5, i6⟩ := h3 e hcart
      have hr := hram e hcart
      refine ⟨i1, i2, i3, i4, Memory.write_wf _ _ _ i5, ?_⟩
      rw [show Cartridge.chrIsRam { e with chr := Memory.write e.chr k d } = e.chrIsRam from rfl, if_pos hr]
      exact Memory.write_below _ _ _ _ (by simpa [hr] using i6) hk
  | pattern k =>
    have hi := ppuWriteTarget_internal s a (by simp [ht])
    have := internalTarget_pattern_lt _ _ k (hi.symm.trans ht)
    exact ⟨h1, h2, h3, { h4 with
      patternForm := Memory.write_wf _ _ _ h4.patternForm
      patternSize := Memory.write_below _ _ _ _ h4.patternSize this }, h5⟩
  | nametable k =>
    have hi := ppuWriteTarget_internal s a (by simp [ht])
    have := internalTarget_nametable_lt _ _ k (hi.symm.trans ht)
    exact ⟨h1, h2, h3, { h4 with
      nametableForm := Memory.write_wf _ _ _ h4.nametableForm
      nametableSize := Memory.write_below _ _ _ _ h4.nametableSize this }, h5⟩
  | palette k =>
    have hi := ppuWriteTarget_internal s a (by simp [ht])
    have := internalTarget_palette_lt _ _ k (hi.symm.trans ht)
    refine ⟨h1, h2, h3, { h4 with
      paletteForm := Memory.write_wf _ _ _ h4.paletteForm
      paletteSize := Memory.write_below _ _ _ _ h4.paletteSize this.1
      paletteAlias := fun c hc => ?_ }, h5⟩
    rcases Memory.mem_write _ _ _ c hc with ⟨rfl, -⟩ | hc
    · exact this.2
    · exact h4.paletteAlias c hc

/-! ## The bus -/

/-- A register file with the invariant may replace the old one. -/
theorem State.Inv.setGfx {s : State} (h : s.Inv) (g : Gfx) (hg : g.Inv) : (s.setGfx g).Inv :=
  { h with graphics := hg }

/-- The CPU registers are not part of the invariant. -/
theorem State.Inv.congr {s t : State} (h : s.Inv) (hram : t.ram = s.ram) (hcart : t.cart = s.cart)
    (hgfx : t.gfx = s.gfx) (htimer : t.timer = s.timer) : t.Inv := by
  obtain ⟨h1, h2, h3, h4, h5⟩ := h
  exact ⟨hram ▸ h1, hram ▸ h2, hcart ▸ h3, hgfx ▸ h4, htimer ▸ h5⟩

theorem portWrite_inv (s : State) (k : Port) (d : Byte) (h : s.Inv) : (portWrite s k d).Inv := by
  cases k <;> simp only [portWrite]
  case control => exact h.setGfx _ { h.graphics with }
  case mask => exact h.setGfx _ { h.graphics with }
  case ppuAddress => exact h.setGfx _ (writePpuAddress_inv _ d h.graphics)
  case ppuData =>
    have hw := ppuWrite_inv s s.gfx.v d h
    exact hw.setGfx _ { hw.graphics with }
  all_goals exact h

theorem afterRead_inv (s : State) (a : Word) (h : s.Inv) : (afterRead s a).Inv := by
  simp only [afterRead]
  split
  · exact h.setGfx _ (portReadEffect_inv s _ h.graphics)
  all_goals exact h

theorem memWrite_inv (s : State) (a : Word) (v : Byte) (h : s.Inv) : (memWrite s a v).Inv := by
  rcases address_cases a with ha | ha | ha
  · rw [memWrite_ram s a v ha]
    exact { h with
      ramForm := Memory.write_wf _ _ _ h.ramForm
      ramSize := Memory.write_below _ _ _ _ h.ramSize (Nat.mod_lt _ (by decide)) }
  · rw [memWrite_port s a v ha]
    exact portWrite_inv s _ v h
  · rwa [memWrite_high s a v ha]

theorem push_inv (v : Byte) (s : State) (h : s.Inv) : (push v s).Inv :=
  (memWrite_inv s (stackAddress s.cpu.sp) v h).congr rfl rfl rfl rfl

theorem pull_inv (s : State) (h : s.Inv) : (pull s).2.Inv := by
  rw [pull_eq]
  exact h.congr rfl rfl rfl rfl

theorem read16_inv (s : State) (a : Word) (h : s.Inv) : (read16 s a).2.Inv :=
  afterRead_inv _ _ (afterRead_inv _ _ h)

theorem enterHandler_inv (pushed : Byte) (vector : Word) (s : State) (h : s.Inv) :
    (enterHandler pushed vector s).Inv := by
  have h1 : (push pushed (pushWord s.cpu.pc s)).Inv := push_inv _ _ (push_inv _ _ (push_inv _ _ h))
  have h2 : ((push pushed (pushWord s.cpu.pc s)).setFlag .i true).Inv := h1.congr rfl rfl rfl rfl
  exact (read16_inv _ vector h2).congr rfl rfl rfl rfl

theorem resetCpu_inv (s : State) (h : s.Inv) : (resetCpu s).Inv :=
  (afterRead_inv _ 0xFFFD (afterRead_inv s 0xFFFC h)).congr rfl rfl rfl rfl

theorem timerTick_inv (s : State) (h : s.Inv) : (timerTick s).Inv :=
  { h with
    graphics := vblankEvents_inv _ _ h.graphics
    counters := advanceTimer_inv _ h.counters }

theorem timerTicks_inv (n : Nat) : ∀ s : State, s.Inv → (timerTicks n s).Inv := by
  induction n with
  | zero => exact fun s h => h
  | succ k ih => exact fun s h => ih _ (timerTick_inv s h)

theorem fetchByte_inv (s : State) (h : s.Inv) : (fetchByte s).2.Inv :=
  (afterRead_inv s s.cpu.pc h).congr rfl rfl rfl rfl

theorem resolve_inv (o : Operand) (s : State) (h : s.Inv) : (resolve o s).1.Inv := by
  cases o with
  | ind ptr =>
    exact (afterRead_inv _ (indirectHighAddress ptr) (afterRead_inv s ptr h)).congr rfl rfl rfl rfl
  | izx z => simp only [resolve, readZeroPage16_eq]; exact h.congr rfl rfl rfl rfl
  | izy z => simp only [resolve, readZeroPage16_eq]; exact h.congr rfl rfl rfl rfl
  | _ => exact h.congr rfl rfl rfl rfl

theorem resolved_inv (i : Instr) (s : State) (h : s.Inv) : (resolved i s).1.Inv :=
  resolve_inv _ _ (h.congr (t := start i s) rfl rfl rfl rfl)

theorem readOperand_inv (o : Operand) (s : State) (h : s.Inv) : (readOperand o s).2.Inv := by
  cases o <;> first
    | exact h.congr rfl rfl rfl rfl
    | exact (afterRead_inv s s.cpu.addrAbs h).congr rfl rfl rfl rfl

theorem loaded_inv (i : Instr) (s : State) (h : s.Inv) : (loaded i s).2.Inv :=
  readOperand_inv _ _ (resolved_inv i s h)

theorem writeback_inv (o : Operand) (v : Byte) (s : State) (h : s.Inv) : (writeback o v s).Inv := by
  cases o <;> first
    | exact h.congr rfl rfl rfl rfl
    | exact memWrite_inv s _ v h

/-! ## Loading -/

/-- What an accepted image is (R80-R86, R92). -/
theorem parseImage_ok (p : Params) (image : List Byte) (c : Cartridge) (h : parseImage p image = .ok c) :
    c = imageCartridge p image ∧ imageMapperId image = 0 ∧ headerByte image 4 ≠ 0 ∧
    image.length = programStart p image + programSize image + graphicsSize image ∧ 16 ≤ image.length ∧
    (p.validateMagic = true → hasMagic p image = true) := by
  unfold parseImage at h
  by_cases h1 : image.length < 16
  · rw [if_pos h1] at h; cases h
  by_cases h2 : (p.validateMagic && !hasMagic p image) = true
  · rw [if_neg h1, if_pos h2] at h; cases h
  by_cases h3 : imageMapperId image ≠ 0
  · rw [if_neg h1, if_neg h2, if_pos h3] at h; cases h
  by_cases h4 : headerByte image 4 = 0
  · rw [if_neg h1, if_neg h2, if_neg h3, if_pos h4] at h; cases h
  by_cases h5 : image.length ≠ programStart p image + programSize image + graphicsSize image
  · rw [if_neg h1, if_neg h2, if_neg h3, if_neg h4, if_pos h5] at h; cases h
  rw [if_neg h1, if_neg h2, if_neg h3, if_neg h4, if_neg h5] at h
  cases h
  exact ⟨rfl, not_not.1 h3, h4, not_not.1 h5, by omega, fun hv => by simpa [hv] using h2⟩

/-- A loaded cartridge has the invariant. -/
theorem parseImage_inv (p : Params) (image : List Byte) (c : Cartridge) (h : parseImage p image = .ok c) : c.Inv := by
  obtain ⟨rfl, h1, h2, h3, -, -⟩ := parseImage_ok p image c h
  refine ⟨h1, h2, Memory.ofBytes_wf _ _, ?_, Memory.ofBytes_wf _ _, ?_⟩
  · intro e he
    have hlt := Memory.ofBytes_below _ e he
    rw [List.length_take] at hlt
    exact lt_of_lt_of_le hlt (min_le_left _ _)
  · intro e he
    have hlt := Memory.ofBytes_below _ e he
    rw [List.length_drop, List.length_drop, h3] at hlt
    have hg : programStart p image + programSize image + graphicsSize image - programStart p image -
        programSize image = graphicsSize image := by omega
    rw [hg] at hlt
    unfold graphicsSize at hlt
    by_cases hram : (headerByte image 5 == 0) = true
    · rw [if_pos (show (imageCartridge p image).chrIsRam = true from hram)]
      rw [beq_iff_eq] at hram
      rw [hram] at hlt
      exact lt_of_lt_of_le hlt (by decide)
    · rw [if_neg (show ¬ (imageCartridge p image).chrIsRam = true from hram)]
      exact hlt

theorem loadCartridge_inv (image : List Byte) (s t : State) (h : s.Inv) (ht : loadCartridge image s = .next t) :
    t.Inv := by
  unfold loadCartridge at ht
  split at ht
  · rename_i c hc
    cases ht
    refine { h with cartridge := fun d hd => ?_ }
    cases hd
    exact parseImage_inv _ image c hc
  · cases ht

end Sys2Proof.Machine
end

