-- ==== Sys2Proof/Laws/Exec.lean ====
section
/-! SUPPORT. What every instruction does and leaves, said once: it answers a next state, keeps the invariant, and writes
neither the timer nor the parameters nor the cycle total. -/

namespace Sys2Proof.Machine

/-! ## What the shapes of execution leave -/

theorem OthersKept.refl (s : State) : OthersKept s s := ⟨rfl, rfl, rfl, rfl, rfl⟩

theorem OthersKept.trans {s t u : State} (h : OthersKept s t) (k : OthersKept t u) : OthersKept s u := by
  obtain ⟨h1, h2, h3, h4, h5⟩ := h
  obtain ⟨k1, k2, k3, k4, k5⟩ := k
  exact ⟨k1.trans h1, k2.trans h2, k3.trans h3, k4.trans h4, k5.trans h5⟩

theorem othersKept_resolved (i : Instr) (s : State) : OthersKept s (resolved i s).1 := by simp [OthersKept]

theorem othersKept_writeTemp (s : State) : OthersKept s (writeTemp s) := OthersKept.refl s

theorem othersKept_loaded (i : Instr) (s : State) : OthersKept s (loaded i s).2 := by simp [OthersKept]

theorem othersKept_addExtraCycle (m o : Bool) (s : State) : OthersKept s (addExtraCycle m o s) := by simp [OthersKept]

theorem othersKept_memWrite (s : State) (a : Word) (v : Byte) : OthersKept s (memWrite s a v) := by
  simp [OthersKept]

theorem othersKept_writeback (o : Operand) (v : Byte) (s : State) : OthersKept s (writeback o v s) := by
  cases o <;> first
    | exact othersKept_memWrite s _ v
    | exact OthersKept.refl s

theorem othersKept_push (v : Byte) (s : State) : OthersKept s (push v s) := by
  rw [push_eq]; exact OthersKept.refl s

theorem othersKept_pull (s : State) : OthersKept s (pull s).2 := by
  rw [pull_eq]; exact OthersKept.refl s

theorem othersKept_pushWord (w : Word) (s : State) : OthersKept s (pushWord w s) := by
  rw [pushWord_eq]; exact OthersKept.refl s

theorem othersKept_pullWord (s : State) : OthersKept s (pullWord s).2 := by
  rw [pullWord_eq]; exact OthersKept.refl s

theorem othersKept_branchIf (c : Bool) (s : State) : OthersKept s (branchIf c s) := by
  simp only [branchIf]
  split <;> exact OthersKept.refl s

/-- One property of the shapes of execution, for a relation that is reflexive, transitive and kept by the pieces. -/
theorem readInstr_othersKept (i : Instr) (signal : Bool) (f : Byte → State → State) (s : State)
    (h : ∀ m u, OthersKept u (f m u)) : OthersKept s (readInstr i signal f s) :=
  (((othersKept_loaded i s).trans (othersKept_writeTemp _)).trans (h _ _)).trans (othersKept_addExtraCycle _ _ _)

theorem modifyInstr_othersKept (i : Instr) (r : Byte → State → Byte) (f : Byte → State → State) (s : State)
    (h : ∀ m u, OthersKept u (f m u)) : OthersKept s (modifyInstr i r f s) := by
  rw [modifyInstr_eq]
  exact (((othersKept_loaded i s).trans (othersKept_writeTemp _)).trans (h _ _)).trans (othersKept_writeback _ _ _)

theorem storeInstr_othersKept (i : Instr) (v : State → Byte) (s : State) : OthersKept s (storeInstr i v s) := by
  rw [storeInstr_eq]
  exact ((othersKept_resolved i s).trans (othersKept_writeTemp _)).trans (othersKept_memWrite _ _ _)

theorem plainInstr_othersKept (i : Instr) (f : State → State) (s : State) (h : ∀ u, OthersKept u (f u)) :
    OthersKept s (plainInstr i f s) := by
  rw [plainInstr_eq]
  exact ((othersKept_resolved i s).trans (othersKept_writeTemp _)).trans (h _)

theorem writeTemp_inv (s : State) (h : s.Inv) : (writeTemp s).Inv := h.congr rfl rfl rfl rfl

theorem readInstr_inv (i : Instr) (signal : Bool) (f : Byte → State → State) (s : State)
    (h : ∀ m u, State.Inv u → (f m u).Inv) (hs : s.Inv) : (readInstr i signal f s).Inv :=
  (h (loaded i s).1 _ (writeTemp_inv _ (loaded_inv i s hs))).congr (by simp [readInstr]) (by simp [readInstr]) (by simp [readInstr])
    (by simp [readInstr])

theorem modifyInstr_inv (i : Instr) (r : Byte → State → Byte) (f : Byte → State → State) (s : State)
    (h : ∀ m u, State.Inv u → (f m u).Inv) (hs : s.Inv) : (modifyInstr i r f s).Inv := by
  rw [modifyInstr_eq]
  exact writeback_inv _ _ _ (h _ _ (writeTemp_inv _ (loaded_inv i s hs)))

theorem storeInstr_inv (i : Instr) (v : State → Byte) (s : State) (hs : s.Inv) : (storeInstr i v s).Inv := by
  rw [storeInstr_eq]
  exact memWrite_inv _ _ _ (writeTemp_inv _ (resolved_inv i s hs))

theorem plainInstr_inv (i : Instr) (f : State → State) (s : State) (h : ∀ u, State.Inv u → (f u).Inv) (hs : s.Inv) :
    (plainInstr i f s).Inv := by
  rw [plainInstr_eq]
  exact h _ (writeTemp_inv _ (resolved_inv i s hs))

/-! ## Every instruction -/

theorem othersKept_enterHandler (pushed : Byte) (vector : Word) (s : State) (h : 0x4000 ≤ vector.toNat)
    (h' : vector.toNat < 0xFFFF) : OthersKept s (enterHandler pushed vector s) := by
  rw [enterHandler_eq _ _ _ h h']
  exact OthersKept.refl s

/-- What the summary of an instruction says of its result. -/
def Kept (s t : State) : Prop := OthersKept s t ∧ (s.Inv → t.Inv)

theorem Kept.read (i : Instr) (signal : Bool) (f : Byte → State → State) (s : State) (h : ∀ m u, Kept u (f m u)) :
    Kept s (readInstr i signal f s) :=
  ⟨readInstr_othersKept i signal f s fun m u => (h m u).1, readInstr_inv i signal f s fun m u => (h m u).2⟩

theorem Kept.modify (i : Instr) (r : Byte → State → Byte) (f : Byte → State → State) (s : State)
    (h : ∀ m u, Kept u (f m u)) : Kept s (modifyInstr i r f s) :=
  ⟨modifyInstr_othersKept i r f s fun m u => (h m u).1, modifyInstr_inv i r f s fun m u => (h m u).2⟩

theorem Kept.store (i : Instr) (v : State → Byte) (s : State) : Kept s (storeInstr i v s) :=
  ⟨storeInstr_othersKept i v s, storeInstr_inv i v s⟩

theorem Kept.plain (i : Instr) (f : State → State) (s : State) (h : ∀ u, Kept u (f u)) : Kept s (plainInstr i f s) :=
  ⟨plainInstr_othersKept i f s fun u => (h u).1, plainInstr_inv i f s fun u => (h u).2⟩

theorem Kept.idle (i : Instr) (s : State) : Kept s (idleInstr i s) := by
  rw [idleInstr, addExtraCycle_false]
  exact ⟨othersKept_resolved i s, resolved_inv i s⟩

theorem Kept.trans {s t u : State} (h : Kept s t) (k : Kept t u) : Kept s u :=
  ⟨h.1.trans k.1, fun hs => k.2 (h.2 hs)⟩

theorem Kept.setA (v : Byte) (s : State) : Kept s (s.setA v) := ⟨OthersKept.refl s, fun h => h.congr rfl rfl rfl rfl⟩
theorem Kept.setSP (v : Byte) (s : State) : Kept s (s.setSP v) :=
  ⟨OthersKept.refl s, fun h => h.congr rfl rfl rfl rfl⟩
theorem Kept.setPC (v : Word) (s : State) : Kept s (s.setPC v) :=
  ⟨OthersKept.refl s, fun h => h.congr rfl rfl rfl rfl⟩
theorem Kept.setP (v : Byte) (s : State) : Kept s (s.setP v) := ⟨OthersKept.refl s, fun h => h.congr rfl rfl rfl rfl⟩
theorem Kept.setFlag (f : Flag) (v : Bool) (s : State) : Kept s (s.setFlag f v) := Kept.setP _ s
theorem Kept.putA (v : Byte) (s : State) : Kept s (putA v s) := ⟨OthersKept.refl s, fun h => h.congr rfl rfl rfl rfl⟩
theorem Kept.putX (v : Byte) (s : State) : Kept s (putX v s) := ⟨OthersKept.refl s, fun h => h.congr rfl rfl rfl rfl⟩
theorem Kept.putY (v : Byte) (s : State) : Kept s (putY v s) := ⟨OthersKept.refl s, fun h => h.congr rfl rfl rfl rfl⟩
theorem Kept.setZN (v : Byte) (s : State) : Kept s (setZN v s) := Kept.setP _ s
theorem Kept.shiftFlags (out : Bool) (r : Byte) (s : State) : Kept s (shiftFlags out r s) :=
  (Kept.setFlag .c out s).trans (Kept.setZN r _)
theorem Kept.addToA (m : Byte) (s : State) : Kept s (addToA m s) := ⟨OthersKept.refl s, fun h => h.congr rfl rfl rfl rfl⟩
theorem Kept.push (v : Byte) (s : State) : Kept s (push v s) := ⟨othersKept_push v s, push_inv v s⟩
theorem Kept.pull (s : State) : Kept s (pull s).2 := ⟨othersKept_pull s, pull_inv s⟩
theorem Kept.pushWord (w : Word) (s : State) : Kept s (pushWord w s) := (Kept.push _ s).trans (Kept.push _ _)
theorem Kept.pullWord (s : State) : Kept s (pullWord s).2 := (Kept.pull s).trans (Kept.pull _)
theorem Kept.enterHandler (pushed : Byte) (vector : Word) (s : State) (h : 0x4000 ≤ vector.toNat)
    (h' : vector.toNat < 0xFFFF) : Kept s (enterHandler pushed vector s) :=
  ⟨othersKept_enterHandler pushed vector s h h', enterHandler_inv pushed vector s⟩
theorem Kept.returnFromInterrupt (s : State) : Kept s (returnFromInterrupt s) := by
  rw [returnFromInterrupt_eq]
  exact ((Kept.setSP _ s).trans (Kept.setP _ _)).trans (Kept.setPC _ _)
theorem Kept.branchIf (c : Bool) (s : State) : Kept s (branchIf c s) := by
  refine ⟨othersKept_branchIf c s, fun h => ?_⟩
  simp only [Machine.branchIf]
  split <;> exact h.congr rfl rfl rfl rfl

/-- Every instruction answers a next state, which keeps what no instruction writes and keeps the invariant. -/
theorem exec_summary (i : Instr) (s : State) : ∃ t, exec i s = .next t ∧ Kept s t := by
  cases i with
  | adc f => exact ⟨_, rfl, Kept.read _ _ _ s Kept.addToA⟩
  | sbc f => exact ⟨_, rfl, Kept.read _ _ _ s fun m u => Kept.addToA _ u⟩
  | and f => exact ⟨_, rfl, Kept.read _ _ _ s fun m u => Kept.putA _ u⟩
  | ora f => exact ⟨_, rfl, Kept.read _ _ _ s fun m u => Kept.putA _ u⟩
  | eor f => exact ⟨_, rfl, Kept.read _ _ _ s fun m u => Kept.putA _ u⟩
  | bit f => exact ⟨_, rfl, Kept.read _ _ _ s fun m u => Kept.setP _ u⟩
  | asl f => exact ⟨_, rfl, Kept.modify _ _ _ s fun m u => Kept.shiftFlags _ _ u⟩
  | lsr f => exact ⟨_, rfl, Kept.modify _ _ _ s fun m u => Kept.shiftFlags _ _ u⟩
  | rol f => exact ⟨_, rfl, Kept.modify _ _ _ s fun m u => Kept.shiftFlags _ _ u⟩
  | ror f => exact ⟨_, rfl, Kept.modify _ _ _ s fun m u => Kept.shiftFlags _ _ u⟩
  | inc f => exact ⟨_, rfl, Kept.modify _ _ _ s fun m u => Kept.setZN _ u⟩
  | dec f => exact ⟨_, rfl, Kept.modify _ _ _ s fun m u => Kept.setZN _ u⟩
  | inx => exact ⟨_, rfl, Kept.plain _ _ s fun u => Kept.putX _ u⟩
  | iny => exact ⟨_, rfl, Kept.plain _ _ s fun u => Kept.putY _ u⟩
  | dex => exact ⟨_, rfl, Kept.plain _ _ s fun u => Kept.putX _ u⟩
  | dey => exact ⟨_, rfl, Kept.plain _ _ s fun u => Kept.putY _ u⟩
  | cmp f => exact ⟨_, rfl, Kept.read _ _ _ s fun m u => Kept.setP _ u⟩
  | cpx f => exact ⟨_, rfl, Kept.read _ _ _ s fun m u => Kept.setP _ u⟩
  | cpy f => exact ⟨_, rfl, Kept.read _ _ _ s fun m u => Kept.setP _ u⟩
  | bcc off => exact ⟨_, rfl, Kept.plain _ _ s fun u => Kept.branchIf _ u⟩
  | bcs off => exact ⟨_, rfl, Kept.plain _ _ s fun u => Kept.branchIf _ u⟩
  | beq off => exact ⟨_, rfl, Kept.plain _ _ s fun u => Kept.branchIf _ u⟩
  | bne off => exact ⟨_, rfl, Kept.plain _ _ s fun u => Kept.branchIf _ u⟩
  | bmi off => exact ⟨_, rfl, Kept.plain _ _ s fun u => Kept.branchIf _ u⟩
  | bpl off => exact ⟨_, rfl, Kept.plain _ _ s fun u => Kept.branchIf _ u⟩
  | bvc off => exact ⟨_, rfl, Kept.plain _ _ s fun u => Kept.branchIf _ u⟩
  | bvs off => exact ⟨_, rfl, Kept.plain _ _ s fun u => Kept.branchIf _ u⟩
  | php => exact ⟨_, rfl, Kept.plain _ _ s fun u => Kept.push _ u⟩
  | pha => exact ⟨_, rfl, Kept.plain _ _ s fun u => Kept.push _ u⟩
  | pla => exact ⟨_, rfl, Kept.plain _ _ s fun u => (Kept.pull u).trans (Kept.putA _ _)⟩
  | plp => exact ⟨_, rfl, Kept.plain _ _ s fun u => (Kept.pull u).trans (Kept.setP _ _)⟩
  | jmp f => exact ⟨_, rfl, Kept.plain _ _ s fun u => Kept.setPC _ u⟩
  | jsr w => exact ⟨_, rfl, Kept.plain _ _ s fun u => (Kept.pushWord _ u).trans (Kept.setPC _ _)⟩
  | rts => exact ⟨_, rfl, Kept.plain _ _ s fun u => (Kept.pullWord u).trans (Kept.setPC _ _)⟩
  | rti => exact ⟨_, rfl, Kept.plain _ _ s fun u => Kept.returnFromInterrupt u⟩
  | brk => exact ⟨_, rfl, Kept.plain _ _ s fun u =>
      (Kept.setPC _ u).trans (Kept.enterHandler _ _ _ (by decide) (by decide))⟩
  | clc => exact ⟨_, rfl, Kept.plain _ _ s fun u => Kept.setFlag _ _ u⟩
  | sec => exact ⟨_, rfl, Kept.plain _ _ s fun u => Kept.setFlag _ _ u⟩
  | cli => exact ⟨_, rfl, Kept.plain _ _ s fun u => Kept.setFlag _ _ u⟩
  | sei => exact ⟨_, rfl, Kept.plain _ _ s fun u => Kept.setFlag _ _ u⟩
  | cld => exact ⟨_, rfl, Kept.plain _ _ s fun u => Kept.setFlag _ _ u⟩
  | sed => exact ⟨_, rfl, Kept.plain _ _ s fun u => Kept.setFlag _ _ u⟩
  | clv => exact ⟨_, rfl, Kept.plain _ _ s fun u => Kept.setFlag _ _ u⟩
  | tax => exact ⟨_, rfl, Kept.plain _ _ s fun u => Kept.putX _ u⟩
  | tay => exact ⟨_, rfl, Kept.plain _ _ s fun u => Kept.putY _ u⟩
  | txa => exact ⟨_, rfl, Kept.plain _ _ s fun u => Kept.putA _ u⟩
  | tya => exact ⟨_, rfl, Kept.plain _ _ s fun u => Kept.putA _ u⟩
  | tsx => exact ⟨_, rfl, Kept.plain _ _ s fun u => Kept.putX _ u⟩
  | txs => exact ⟨_, rfl, Kept.plain _ _ s fun u => Kept.setSP _ u⟩
  | lda f => exact ⟨_, rfl, Kept.read _ _ _ s Kept.putA⟩
  | ldx f => exact ⟨_, rfl, Kept.read _ _ _ s Kept.putX⟩
  | ldy f => exact ⟨_, rfl, Kept.read _ _ _ s Kept.putY⟩
  | sta f => exact ⟨_, rfl, Kept.store _ _ s⟩
  | stx f => exact ⟨_, rfl, Kept.store _ _ s⟩
  | sty f => exact ⟨_, rfl, Kept.store _ _ s⟩
  | nop => exact ⟨_, rfl, Kept.idle _ s⟩
  | xxx opcode => exact ⟨_, rfl, Kept.idle _ s⟩

end Sys2Proof.Machine
end

