-- ==== Sys2Proof/Laws/Clock.lean ====
section
/-! SUPPORT. The timer, the fetch and the clock group, each said once: what it writes and what it leaves. -/

namespace Sys2Proof.Machine

/-! ## The timer -/

section
variable (s : State)

@[simp] theorem timerTick_cpu : (timerTick s).cpu = s.cpu := rfl
@[simp] theorem timerTick_ram : (timerTick s).ram = s.ram := rfl
@[simp] theorem timerTick_cart : (timerTick s).cart = s.cart := rfl
@[simp] theorem timerTick_params : (timerTick s).params = s.params := rfl
@[simp] theorem timerTick_wasReset : (timerTick s).wasReset = s.wasReset := rfl
@[simp] theorem timerTick_freeCount : (timerTick s).freeCount = s.freeCount := rfl

/-- A timer tick writes STATUS and the counters only (20 R75). -/
theorem timerTick_gfx_frame :
    (timerTick s).gfx.ctrl = s.gfx.ctrl ∧ (timerTick s).gfx.mask = s.gfx.mask ∧
    (timerTick s).gfx.latch = s.gfx.latch ∧ (timerTick s).gfx.v = s.gfx.v ∧
    (timerTick s).gfx.buffer = s.gfx.buffer ∧ (timerTick s).gfx.nametable = s.gfx.nametable ∧
    (timerTick s).gfx.palette = s.gfx.palette ∧ (timerTick s).gfx.pattern = s.gfx.pattern := by
  simp only [timerTick, vblankEvents, State.setTimer_gfx, State.setGfx_gfx]
  split
  · simp [setVBlank]
  · split <;> simp [setVBlank]

end

section
variable (n : Nat) (s : State)

theorem timerTicks_succ : timerTicks (n + 1) s = timerTicks n (timerTick s) := rfl

/-- A run of timer ticks touches neither the CPU nor RAM nor the cartridge nor the parameters. -/
theorem timerTicks_frame : ∀ s : State,
    (timerTicks n s).cpu = s.cpu ∧ (timerTicks n s).ram = s.ram ∧ (timerTicks n s).cart = s.cart ∧
    (timerTicks n s).params = s.params ∧ (timerTicks n s).wasReset = s.wasReset ∧
    (timerTicks n s).freeCount = s.freeCount := by
  induction n with
  | zero => simp [timerTicks]
  | succ k ih => intro s; simpa [timerTicks_succ] using ih (timerTick s)

@[simp] theorem timerTicks_cpu : (timerTicks n s).cpu = s.cpu := (timerTicks_frame n s).1
@[simp] theorem timerTicks_ram : (timerTicks n s).ram = s.ram := (timerTicks_frame n s).2.1
@[simp] theorem timerTicks_cart : (timerTicks n s).cart = s.cart := (timerTicks_frame n s).2.2.1
@[simp] theorem timerTicks_params : (timerTicks n s).params = s.params := (timerTicks_frame n s).2.2.2.1
@[simp] theorem timerTicks_wasReset : (timerTicks n s).wasReset = s.wasReset := (timerTicks_frame n s).2.2.2.2.1
@[simp] theorem timerTicks_freeCount : (timerTicks n s).freeCount = s.freeCount :=
  (timerTicks_frame n s).2.2.2.2.2

theorem timerTicks_add (m : Nat) : ∀ s : State, timerTicks (m + n) s = timerTicks n (timerTicks m s) := by
  induction m with
  | zero => intro s; rw [Nat.zero_add]; rfl
  | succ k ih => intro s; rw [Nat.add_right_comm, timerTicks_succ, timerTicks_succ, ih]

/-- A timer tick reads and writes no CPU register, so it commutes with every change of them. -/
theorem timerTick_cpu_update (c : Cpu) : timerTick { s with cpu := c } = { timerTick s with cpu := c } := rfl

theorem timerTicks_cpu_update (c : Cpu) :
    ∀ s : State, timerTicks n { s with cpu := c } = { timerTicks n s with cpu := c } := by
  induction n with
  | zero => intro s; rfl
  | succ k ih => intro s; rw [timerTicks_succ, timerTick_cpu_update, ih, ← timerTicks_succ]

/-- Timer ticks change no byte outside the port window. -/
theorem peek_timerTicks (a : Word) (h : ¬ IsPortAddress a) : peek (timerTicks n s) a = peek s a :=
  peek_congr_of_not_port _ _ a h (by simp) (by simp)

end

/-! ## Fetch -/

/-- The fetch of a byte outside the port window: the byte, and PC advanced. -/
theorem fetchByte_of_not_port (s : State) (h : ¬ IsPortAddress s.cpu.pc) :
    fetchByte s = (peek s s.cpu.pc, s.setPC (s.cpu.pc + 1)) := by
  simp only [fetchByte, memRead_fst, memRead_snd, afterRead_of_not_port s _ h]

theorem fetchByte_fst (s : State) : (fetchByte s).1 = peek s s.cpu.pc := rfl
theorem fetchByte_pc (s : State) : (fetchByte s).2.cpu.pc = s.cpu.pc + 1 := by simp [fetchByte]
theorem fetchByte_snd (s : State) : (fetchByte s).2 = (afterRead s s.cpu.pc).setPC (s.cpu.pc + 1) := by
  simp [fetchByte]

/-- The state a fetch leaves, whatever the bytes are: what it does not write. -/
theorem fetch_frame (s : State) :
    (fetch s).state.cpu.a = s.cpu.a ∧ (fetch s).state.cpu.x = s.cpu.x ∧ (fetch s).state.cpu.y = s.cpu.y ∧
    (fetch s).state.cpu.sp = s.cpu.sp ∧ (fetch s).state.cpu.remaining = s.cpu.remaining ∧
    (fetch s).state.cpu.totalCycles = s.cpu.totalCycles ∧ (fetch s).state.ram = s.ram ∧
    (fetch s).state.cart = s.cart ∧ (fetch s).state.timer = s.timer ∧ (fetch s).state.params = s.params ∧
    (fetch s).state.wasReset = s.wasReset := by
  simp only [fetch, fetchOpcode, fetchByte_fst, fetchByte_snd]
  split <;> simp

theorem fetch_inv (s : State) (h : s.Inv) : (fetch s).state.Inv := by
  have h0 : (fetchOpcode s).2.Inv := (fetchByte_inv s h).congr rfl rfl rfl rfl
  simp only [fetch]
  split
  · exact h0
  · exact fetchByte_inv _ h0
  · exact fetchByte_inv _ (fetchByte_inv _ h0)

/-! ## Results -/

@[simp] theorem andThen_next (s : State) (f : State → Result) : andThen (.next s) f = f s := rfl
@[simp] theorem andThen_fault (e : Fault) (f : State → Result) : andThen (.fault e) f = .fault e := rfl
@[simp] theorem andThen_refused (e : Refusal) (f : State → Result) : andThen (.refused e) f = .refused e := rfl

/-- A tick before the first `reset()` is refused (70 R478). -/
theorem cpuTick_unreset (s : State) (h : s.wasReset = false) : cpuTick s = .refused .tickBeforeReset := by
  simp [cpuTick, h]

/-- A tick of the Executing phase only counts down (R140). -/
theorem cpuTick_executing (s : State) (h : s.wasReset = true) (hr : s.cpu.remaining ≠ 0) :
    cpuTick s = .next (countCycle (s.setRemaining (s.cpu.remaining - 1))) := by
  simp [cpuTick, h, hr]

/-- A tick of the Idle phase fetches and executes (R140, R141). -/
theorem cpuTick_idle (s : State) (h : s.wasReset = true) (hr : s.cpu.remaining = 0) :
    cpuTick s = andThen (fetchExecute s) (fun t => .next (countCycle (chargeFetchTick t))) := by
  simp [cpuTick, h, hr]

/-- A clock group of the Executing phase: three timer ticks and one cycle counted (R446). -/
theorem clockGroup_executing (s : State) (h : s.wasReset = true) (hr : s.cpu.remaining ≠ 0) :
    clockGroup s =
      .next (countCycle ((timerTicks 3 s).setRemaining (s.cpu.remaining - 1))) := by
  have hk : s.params.timerTicksBeforeCpu.val + (3 - s.params.timerTicksBeforeCpu.val) = 3 := by
    have := s.params.timerTicksBeforeCpu.isLt
    omega
  have hr' : (leadingTimerTicks s).cpu.remaining ≠ 0 := by simpa [leadingTimerTicks] using hr
  rw [clockGroup, cpuTick_executing _ (by simpa [leadingTimerTicks] using h) hr', andThen_next]
  simp only [trailingTimerTicks, countCycle, leadingTimerTicks, State.setTotalCycles_params,
    State.setRemaining_params, timerTicks_params, timerTicks_cpu, State.setRemaining_totalCycles]
  congr 1
  conv_rhs => rw [← hk, timerTicks_add]
  simp only [State.setTotalCycles, State.setRemaining]
  rw [timerTicks_cpu_update]
  simp

end Sys2Proof.Machine
end

