-- ==== Sys2Proof/Laws/PerInstr.lean ====
section
/-! SUPPORT. The family EncodeLength: an instruction's words are as many bytes as its mode takes (spec 30_encoding.md
R120, R121). One lemma per constructor. -/

namespace Sys2Proof

/-- As many operand bytes as the mode consumes (R121). -/
theorem Operand.length_bytes (o : Operand) : o.bytes.length = o.mode.operandBytes := by cases o <;> rfl

/-- The length of an encoded instruction. -/
theorem length_encode (i : Instr) : (encode i).length = 1 + i.operand.mode.operandBytes := by
  rw [encode, List.length_cons, Operand.length_bytes, Nat.add_comm]

namespace Laws.EncodeLength

/-- The encoded instruction is one opcode byte and its mode's operand bytes, between 1 and 3 bytes. -/
def Statement (i : Instr) : Prop :=
  (encode i).length = 1 + i.operand.mode.operandBytes ∧ 1 ≤ (encode i).length ∧ (encode i).length ≤ 3

theorem of_mode (i : Instr) (h : i.operand.mode.operandBytes ≤ 2) : Statement i := by
  refine ⟨length_encode i, ?_, ?_⟩ <;> rw [length_encode] <;> omega

theorem adc (f : AluForm) : Statement (.adc f) := of_mode _ (by cases f <;> exact Nat.le_of_ble_eq_true rfl)
theorem sbc (f : AluForm) : Statement (.sbc f) := of_mode _ (by cases f <;> exact Nat.le_of_ble_eq_true rfl)
theorem and (f : AluForm) : Statement (.and f) := of_mode _ (by cases f <;> exact Nat.le_of_ble_eq_true rfl)
theorem ora (f : AluForm) : Statement (.ora f) := of_mode _ (by cases f <;> exact Nat.le_of_ble_eq_true rfl)
theorem eor (f : AluForm) : Statement (.eor f) := of_mode _ (by cases f <;> exact Nat.le_of_ble_eq_true rfl)
theorem bit (f : BitForm) : Statement (.bit f) := of_mode _ (by cases f <;> exact Nat.le_of_ble_eq_true rfl)
theorem asl (f : ShiftForm) : Statement (.asl f) := of_mode _ (by cases f <;> exact Nat.le_of_ble_eq_true rfl)
theorem lsr (f : ShiftForm) : Statement (.lsr f) := of_mode _ (by cases f <;> exact Nat.le_of_ble_eq_true rfl)
theorem rol (f : ShiftForm) : Statement (.rol f) := of_mode _ (by cases f <;> exact Nat.le_of_ble_eq_true rfl)
theorem ror (f : ShiftForm) : Statement (.ror f) := of_mode _ (by cases f <;> exact Nat.le_of_ble_eq_true rfl)
theorem inc (f : IncForm) : Statement (.inc f) := of_mode _ (by cases f <;> exact Nat.le_of_ble_eq_true rfl)
theorem dec (f : IncForm) : Statement (.dec f) := of_mode _ (by cases f <;> exact Nat.le_of_ble_eq_true rfl)
theorem inx : Statement .inx := of_mode _ (by decide)
theorem iny : Statement .iny := of_mode _ (by decide)
theorem dex : Statement .dex := of_mode _ (by decide)
theorem dey : Statement .dey := of_mode _ (by decide)
theorem cmp (f : AluForm) : Statement (.cmp f) := of_mode _ (by cases f <;> exact Nat.le_of_ble_eq_true rfl)
theorem cpx (f : IndexCompareForm) : Statement (.cpx f) := of_mode _ (by cases f <;> exact Nat.le_of_ble_eq_true rfl)
theorem cpy (f : IndexCompareForm) : Statement (.cpy f) := of_mode _ (by cases f <;> exact Nat.le_of_ble_eq_true rfl)
theorem bcc (off : Byte) : Statement (.bcc off) := of_mode (.bcc off) (Nat.le_succ 1)
theorem bcs (off : Byte) : Statement (.bcs off) := of_mode (.bcs off) (Nat.le_succ 1)
theorem beq (off : Byte) : Statement (.beq off) := of_mode (.beq off) (Nat.le_succ 1)
theorem bne (off : Byte) : Statement (.bne off) := of_mode (.bne off) (Nat.le_succ 1)
theorem bmi (off : Byte) : Statement (.bmi off) := of_mode (.bmi off) (Nat.le_succ 1)
theorem bpl (off : Byte) : Statement (.bpl off) := of_mode (.bpl off) (Nat.le_succ 1)
theorem bvc (off : Byte) : Statement (.bvc off) := of_mode (.bvc off) (Nat.le_succ 1)
theorem bvs (off : Byte) : Statement (.bvs off) := of_mode (.bvs off) (Nat.le_succ 1)
theorem php : Statement .php := of_mode _ (by decide)
theorem pha : Statement .pha := of_mode _ (by decide)
theorem pla : Statement .pla := of_mode _ (by decide)
theorem plp : Statement .plp := of_mode _ (by decide)
theorem jmp (f : JmpForm) : Statement (.jmp f) := of_mode _ (by cases f <;> exact Nat.le_of_ble_eq_true rfl)
theorem jsr (w : Word) : Statement (.jsr w) := of_mode (.jsr w) (Nat.le_refl 2)
theorem rts : Statement .rts := of_mode _ (by decide)
theorem rti : Statement .rti := of_mode _ (by decide)
theorem brk : Statement .brk := of_mode _ (by decide)
theorem clc : Statement .clc := of_mode _ (by decide)
theorem sec : Statement .sec := of_mode _ (by decide)
theorem cli : Statement .cli := of_mode _ (by decide)
theorem sei : Statement .sei := of_mode _ (by decide)
theorem cld : Statement .cld := of_mode _ (by decide)
theorem sed : Statement .sed := of_mode _ (by decide)
theorem clv : Statement .clv := of_mode _ (by decide)
theorem tax : Statement .tax := of_mode _ (by decide)
theorem tay : Statement .tay := of_mode _ (by decide)
theorem txa : Statement .txa := of_mode _ (by decide)
theorem tya : Statement .tya := of_mode _ (by decide)
theorem tsx : Statement .tsx := of_mode _ (by decide)
theorem txs : Statement .txs := of_mode _ (by decide)
theorem lda (f : AluForm) : Statement (.lda f) := of_mode _ (by cases f <;> exact Nat.le_of_ble_eq_true rfl)
theorem ldx (f : LdxForm) : Statement (.ldx f) := of_mode _ (by cases f <;> exact Nat.le_of_ble_eq_true rfl)
theorem ldy (f : LdyForm) : Statement (.ldy f) := of_mode _ (by cases f <;> exact Nat.le_of_ble_eq_true rfl)
theorem sta (f : StaForm) : Statement (.sta f) := of_mode _ (by cases f <;> exact Nat.le_of_ble_eq_true rfl)
theorem stx (f : StxForm) : Statement (.stx f) := of_mode _ (by cases f <;> exact Nat.le_of_ble_eq_true rfl)
theorem sty (f : StyForm) : Statement (.sty f) := of_mode _ (by cases f <;> exact Nat.le_of_ble_eq_true rfl)
theorem nop : Statement .nop := of_mode _ (by decide)
theorem xxx (opcode : Byte) : Statement (.xxx opcode) := of_mode (.xxx opcode) (Nat.zero_le 2)

end Laws.EncodeLength

end Sys2Proof
end

