-- ==== Sys2Proof/Tests/Slice0.lean ====
section
/-! SUPPORT. Tests and witnesses. The expected results are transcribed from spec/opcode_table.json and from the vectors of
spec/95_test_vectors.md (the V- names), not from the model. A witness shows that what a statement assumes can be met. -/

namespace Sys2Proof.Machine

/-! ## WellFormed: the one check, an ill-formed term it refuses and a term it accepts -/

/-- A placeholder that carries a documented opcode is refused. -/
theorem test_placeholder_of_documented_opcode_refused :
    (Instr.xxx 0x69).wellFormed = false ∧ (Instr.xxx 0x00).wellFormed = false ∧ (Instr.xxx 0xEA).wellFormed = false := by
  decide

theorem test_placeholder_accepted : (Instr.xxx 0x02).wellFormed = true ∧ (Instr.xxx 0xFF).wellFormed = true := by decide

/-! ## Decode: every row of spec/opcode_table.json, with operand bytes 0x34 and 0x12 -/

/-- Opcode byte, instruction, mode and base cycles of a row. -/
abbrev TableRow := Nat × Instr × Mode × Nat

/-- The row's word decodes to the row's instruction, and its descriptor has the row's mode and cycles. -/
def rowDecodes (r : TableRow) : Bool :=
  decodeTableWord 24 (0x123400 + r.1) == some r.2.1 &&
    describe Params.default (BitVec.ofNat 8 r.1) == (r.2.1.mnemonic, r.2.2.1, r.2.2.2)

theorem test_table_row_0 : ([
    (0x00, .brk, .imp, 7), (0x01, .ora (.izx 0x34), .izx, 6), (0x02, .xxx 0x02, .imp, 2),
    (0x03, .xxx 0x03, .imp, 2), (0x04, .xxx 0x04, .imp, 2), (0x05, .ora (.zp0 0x34), .zp0, 3),
    (0x06, .asl (.zp0 0x34), .zp0, 5), (0x07, .xxx 0x07, .imp, 2), (0x08, .php, .imp, 3),
    (0x09, .ora (.imm 0x34), .imm, 2), (0x0A, .asl .acc, .imp, 2), (0x0B, .xxx 0x0B, .imp, 2),
    (0x0C, .xxx 0x0C, .imp, 2), (0x0D, .ora (.abs 0x1234), .abs, 4), (0x0E, .asl (.abs 0x1234), .abs, 6),
    (0x0F, .xxx 0x0F, .imp, 2)] :
    List TableRow).all rowDecodes = true := by decide

theorem test_table_row_1 : ([
    (0x10, .bpl 0x34, .rel, 2), (0x11, .ora (.izy 0x34), .izy, 5), (0x12, .xxx 0x12, .imp, 2),
    (0x13, .xxx 0x13, .imp, 2), (0x14, .xxx 0x14, .imp, 2), (0x15, .ora (.zpx 0x34), .zpx, 4),
    (0x16, .asl (.zpx 0x34), .zpx, 6), (0x17, .xxx 0x17, .imp, 2), (0x18, .clc, .imp, 2),
    (0x19, .ora (.aby 0x1234), .aby, 4), (0x1A, .xxx 0x1A, .imp, 2), (0x1B, .xxx 0x1B, .imp, 2),
    (0x1C, .xxx 0x1C, .imp, 2), (0x1D, .ora (.abx 0x1234), .abx, 4), (0x1E, .asl (.abx 0x1234), .abx, 7),
    (0x1F, .xxx 0x1F, .imp, 2)] :
    List TableRow).all rowDecodes = true := by decide

theorem test_table_row_2 : ([
    (0x20, .jsr 0x1234, .abs, 6), (0x21, .and (.izx 0x34), .izx, 6), (0x22, .xxx 0x22, .imp, 2),
    (0x23, .xxx 0x23, .imp, 2), (0x24, .bit (.zp0 0x34), .zp0, 3), (0x25, .and (.zp0 0x34), .zp0, 3),
    (0x26, .rol (.zp0 0x34), .zp0, 5), (0x27, .xxx 0x27, .imp, 2), (0x28, .plp, .imp, 4),
    (0x29, .and (.imm 0x34), .imm, 2), (0x2A, .rol .acc, .imp, 2), (0x2B, .xxx 0x2B, .imp, 2),
    (0x2C, .bit (.abs 0x1234), .abs, 4), (0x2D, .and (.abs 0x1234), .abs, 4), (0x2E, .rol (.abs 0x1234), .abs, 6),
    (0x2F, .xxx 0x2F, .imp, 2)] :
    List TableRow).all rowDecodes = true := by decide

theorem test_table_row_3 : ([
    (0x30, .bmi 0x34, .rel, 2), (0x31, .and (.izy 0x34), .izy, 5), (0x32, .xxx 0x32, .imp, 2),
    (0x33, .xxx 0x33, .imp, 2), (0x34, .xxx 0x34, .imp, 2), (0x35, .and (.zpx 0x34), .zpx, 4),
    (0x36, .rol (.zpx 0x34), .zpx, 6), (0x37, .xxx 0x37, .imp, 2), (0x38, .sec, .imp, 2),
    (0x39, .and (.aby 0x1234), .aby, 4), (0x3A, .xxx 0x3A, .imp, 2), (0x3B, .xxx 0x3B, .imp, 2),
    (0x3C, .xxx 0x3C, .imp, 2), (0x3D, .and (.abx 0x1234), .abx, 4), (0x3E, .rol (.abx 0x1234), .abx, 7),
    (0x3F, .xxx 0x3F, .imp, 2)] :
    List TableRow).all rowDecodes = true := by decide

theorem test_table_row_4 : ([
    (0x40, .rti, .imp, 6), (0x41, .eor (.izx 0x34), .izx, 6), (0x42, .xxx 0x42, .imp, 2),
    (0x43, .xxx 0x43, .imp, 2), (0x44, .xxx 0x44, .imp, 2), (0x45, .eor (.zp0 0x34), .zp0, 3),
    (0x46, .lsr (.zp0 0x34), .zp0, 5), (0x47, .xxx 0x47, .imp, 2), (0x48, .pha, .imp, 3),
    (0x49, .eor (.imm 0x34), .imm, 2), (0x4A, .lsr .acc, .imp, 2), (0x4B, .xxx 0x4B, .imp, 2),
    (0x4C, .jmp (.abs 0x1234), .abs, 3), (0x4D, .eor (.abs 0x1234), .abs, 4), (0x4E, .lsr (.abs 0x1234), .abs, 6),
    (0x4F, .xxx 0x4F, .imp, 2)] :
    List TableRow).all rowDecodes = true := by decide

theorem test_table_row_5 : ([
    (0x50, .bvc 0x34, .rel, 2), (0x51, .eor (.izy 0x34), .izy, 5), (0x52, .xxx 0x52, .imp, 2),
    (0x53, .xxx 0x53, .imp, 2), (0x54, .xxx 0x54, .imp, 2), (0x55, .eor (.zpx 0x34), .zpx, 4),
    (0x56, .lsr (.zpx 0x34), .zpx, 6), (0x57, .xxx 0x57, .imp, 2), (0x58, .cli, .imp, 2),
    (0x59, .eor (.aby 0x1234), .aby, 4), (0x5A, .xxx 0x5A, .imp, 2), (0x5B, .xxx 0x5B, .imp, 2),
    (0x5C, .xxx 0x5C, .imp, 2), (0x5D, .eor (.abx 0x1234), .abx, 4), (0x5E, .lsr (.abx 0x1234), .abx, 7),
    (0x5F, .xxx 0x5F, .imp, 2)] :
    List TableRow).all rowDecodes = true := by decide

theorem test_table_row_6 : ([
    (0x60, .rts, .imp, 6), (0x61, .adc (.izx 0x34), .izx, 6), (0x62, .xxx 0x62, .imp, 2),
    (0x63, .xxx 0x63, .imp, 2), (0x64, .xxx 0x64, .imp, 2), (0x65, .adc (.zp0 0x34), .zp0, 3),
    (0x66, .ror (.zp0 0x34), .zp0, 5), (0x67, .xxx 0x67, .imp, 2), (0x68, .pla, .imp, 4),
    (0x69, .adc (.imm 0x34), .imm, 2), (0x6A, .ror .acc, .imp, 2), (0x6B, .xxx 0x6B, .imp, 2),
    (0x6C, .jmp (.ind 0x1234), .ind, 5), (0x6D, .adc (.abs 0x1234), .abs, 4), (0x6E, .ror (.abs 0x1234), .abs, 6),
    (0x6F, .xxx 0x6F, .imp, 2)] :
    List TableRow).all rowDecodes = true := by decide

theorem test_table_row_7 : ([
    (0x70, .bvs 0x34, .rel, 2), (0x71, .adc (.izy 0x34), .izy, 5), (0x72, .xxx 0x72, .imp, 2),
    (0x73, .xxx 0x73, .imp, 2), (0x74, .xxx 0x74, .imp, 2), (0x75, .adc (.zpx 0x34), .zpx, 4),
    (0x76, .ror (.zpx 0x34), .zpx, 6), (0x77, .xxx 0x77, .imp, 2), (0x78, .sei, .imp, 2),
    (0x79, .adc (.aby 0x1234), .aby, 4), (0x7A, .xxx 0x7A, .imp, 2), (0x7B, .xxx 0x7B, .imp, 2),
    (0x7C, .xxx 0x7C, .imp, 2), (0x7D, .adc (.abx 0x1234), .abx, 4), (0x7E, .ror (.abx 0x1234), .abx, 7),
    (0x7F, .xxx 0x7F, .imp, 2)] :
    List TableRow).all rowDecodes = true := by decide

theorem test_table_row_8 : ([
    (0x80, .xxx 0x80, .imp, 2), (0x81, .sta (.izx 0x34), .izx, 6), (0x82, .xxx 0x82, .imp, 2),
    (0x83, .xxx 0x83, .imp, 2), (0x84, .sty (.zp0 0x34), .zp0, 3), (0x85, .sta (.zp0 0x34), .zp0, 3),
    (0x86, .stx (.zp0 0x34), .zp0, 3), (0x87, .xxx 0x87, .imp, 2), (0x88, .dey, .imp, 2),
    (0x89, .xxx 0x89, .imp, 2), (0x8A, .txa, .imp, 2), (0x8B, .xxx 0x8B, .imp, 2),
    (0x8C, .sty (.abs 0x1234), .abs, 4), (0x8D, .sta (.abs 0x1234), .abs, 4), (0x8E, .stx (.abs 0x1234), .abs, 4),
    (0x8F, .xxx 0x8F, .imp, 2)] :
    List TableRow).all rowDecodes = true := by decide

theorem test_table_row_9 : ([
    (0x90, .bcc 0x34, .rel, 2), (0x91, .sta (.izy 0x34), .izy, 6), (0x92, .xxx 0x92, .imp, 2),
    (0x93, .xxx 0x93, .imp, 2), (0x94, .sty (.zpx 0x34), .zpx, 4), (0x95, .sta (.zpx 0x34), .zpx, 4),
    (0x96, .stx (.zpy 0x34), .zpy, 4), (0x97, .xxx 0x97, .imp, 2), (0x98, .tya, .imp, 2),
    (0x99, .sta (.aby 0x1234), .aby, 5), (0x9A, .txs, .imp, 2), (0x9B, .xxx 0x9B, .imp, 2),
    (0x9C, .xxx 0x9C, .imp, 2), (0x9D, .sta (.abx 0x1234), .abx, 5), (0x9E, .xxx 0x9E, .imp, 2),
    (0x9F, .xxx 0x9F, .imp, 2)] :
    List TableRow).all rowDecodes = true := by decide

theorem test_table_row_a : ([
    (0xA0, .ldy (.imm 0x34), .imm, 2), (0xA1, .lda (.izx 0x34), .izx, 6), (0xA2, .ldx (.imm 0x34), .imm, 2),
    (0xA3, .xxx 0xA3, .imp, 2), (0xA4, .ldy (.zp0 0x34), .zp0, 3), (0xA5, .lda (.zp0 0x34), .zp0, 3),
    (0xA6, .ldx (.zp0 0x34), .zp0, 3), (0xA7, .xxx 0xA7, .imp, 2), (0xA8, .tay, .imp, 2),
    (0xA9, .lda (.imm 0x34), .imm, 2), (0xAA, .tax, .imp, 2), (0xAB, .xxx 0xAB, .imp, 2),
    (0xAC, .ldy (.abs 0x1234), .abs, 4), (0xAD, .lda (.abs 0x1234), .abs, 4), (0xAE, .ldx (.abs 0x1234), .abs, 4),
    (0xAF, .xxx 0xAF, .imp, 2)] :
    List TableRow).all rowDecodes = true := by decide

theorem test_table_row_b : ([
    (0xB0, .bcs 0x34, .rel, 2), (0xB1, .lda (.izy 0x34), .izy, 5), (0xB2, .xxx 0xB2, .imp, 2),
    (0xB3, .xxx 0xB3, .imp, 2), (0xB4, .ldy (.zpx 0x34), .zpx, 4), (0xB5, .lda (.zpx 0x34), .zpx, 4),
    (0xB6, .ldx (.zpy 0x34), .zpy, 4), (0xB7, .xxx 0xB7, .imp, 2), (0xB8, .clv, .imp, 2),
    (0xB9, .lda (.aby 0x1234), .aby, 4), (0xBA, .tsx, .imp, 2), (0xBB, .xxx 0xBB, .imp, 2),
    (0xBC, .ldy (.abx 0x1234), .abx, 4), (0xBD, .lda (.abx 0x1234), .abx, 4), (0xBE, .ldx (.aby 0x1234), .aby, 4),
    (0xBF, .xxx 0xBF, .imp, 2)] :
    List TableRow).all rowDecodes = true := by decide

theorem test_table_row_c : ([
    (0xC0, .cpy (.imm 0x34), .imm, 2), (0xC1, .cmp (.izx 0x34), .izx, 6), (0xC2, .xxx 0xC2, .imp, 2),
    (0xC3, .xxx 0xC3, .imp, 2), (0xC4, .cpy (.zp0 0x34), .zp0, 3), (0xC5, .cmp (.zp0 0x34), .zp0, 3),
    (0xC6, .dec (.zp0 0x34), .zp0, 5), (0xC7, .xxx 0xC7, .imp, 2), (0xC8, .iny, .imp, 2),
    (0xC9, .cmp (.imm 0x34), .imm, 2), (0xCA, .dex, .imp, 2), (0xCB, .xxx 0xCB, .imp, 2),
    (0xCC, .cpy (.abs 0x1234), .abs, 4), (0xCD, .cmp (.abs 0x1234), .abs, 4), (0xCE, .dec (.abs 0x1234), .abs, 6),
    (0xCF, .xxx 0xCF, .imp, 2)] :
    List TableRow).all rowDecodes = true := by decide

theorem test_table_row_d : ([
    (0xD0, .bne 0x34, .rel, 2), (0xD1, .cmp (.izy 0x34), .izy, 5), (0xD2, .xxx 0xD2, .imp, 2),
    (0xD3, .xxx 0xD3, .imp, 2), (0xD4, .xxx 0xD4, .imp, 2), (0xD5, .cmp (.zpx 0x34), .zpx, 4),
    (0xD6, .dec (.zpx 0x34), .zpx, 6), (0xD7, .xxx 0xD7, .imp, 2), (0xD8, .cld, .imp, 2),
    (0xD9, .cmp (.aby 0x1234), .aby, 4), (0xDA, .xxx 0xDA, .imp, 2), (0xDB, .xxx 0xDB, .imp, 2),
    (0xDC, .xxx 0xDC, .imp, 2), (0xDD, .cmp (.abx 0x1234), .abx, 4), (0xDE, .dec (.abx 0x1234), .abx, 7),
    (0xDF, .xxx 0xDF, .imp, 2)] :
    List TableRow).all rowDecodes = true := by decide

theorem test_table_row_e : ([
    (0xE0, .cpx (.imm 0x34), .imm, 2), (0xE1, .sbc (.izx 0x34), .izx, 6), (0xE2, .xxx 0xE2, .imp, 2),
    (0xE3, .xxx 0xE3, .imp, 2), (0xE4, .cpx (.zp0 0x34), .zp0, 3), (0xE5, .sbc (.zp0 0x34), .zp0, 3),
    (0xE6, .inc (.zp0 0x34), .zp0, 5), (0xE7, .xxx 0xE7, .imp, 2), (0xE8, .inx, .imp, 2),
    (0xE9, .sbc (.imm 0x34), .imm, 2), (0xEA, .nop, .imp, 2), (0xEB, .xxx 0xEB, .imp, 2),
    (0xEC, .cpx (.abs 0x1234), .abs, 4), (0xED, .sbc (.abs 0x1234), .abs, 4), (0xEE, .inc (.abs 0x1234), .abs, 6),
    (0xEF, .xxx 0xEF, .imp, 2)] :
    List TableRow).all rowDecodes = true := by decide

theorem test_table_row_f : ([
    (0xF0, .beq 0x34, .rel, 2), (0xF1, .sbc (.izy 0x34), .izy, 5), (0xF2, .xxx 0xF2, .imp, 2),
    (0xF3, .xxx 0xF3, .imp, 2), (0xF4, .xxx 0xF4, .imp, 2), (0xF5, .sbc (.zpx 0x34), .zpx, 4),
    (0xF6, .inc (.zpx 0x34), .zpx, 6), (0xF7, .xxx 0xF7, .imp, 2), (0xF8, .sed, .imp, 2),
    (0xF9, .sbc (.aby 0x1234), .aby, 4), (0xFA, .xxx 0xFA, .imp, 2), (0xFB, .xxx 0xFB, .imp, 2),
    (0xFC, .xxx 0xFC, .imp, 2), (0xFD, .sbc (.abx 0x1234), .abx, 4), (0xFE, .inc (.abx 0x1234), .abx, 7),
    (0xFF, .xxx 0xFF, .imp, 2)] :
    List TableRow).all rowDecodes = true := by decide

/-- Words written bit by bit (30_encoding.md sections 1 and 3), one or more of every family. -/
theorem test_words_bit_by_bit :
    decodeTableWord 16 0b0111111101101001 = some (.adc (.imm 0b01111111)) ∧
    decodeTableWord 16 0b1000000000100100 = some (.bit (.zp0 0b10000000)) ∧
    decodeTableWord 24 0b000100100011010000011110 = some (.asl (.abx 0b0001001000110100)) ∧
    decodeTableWord 8 0b11101000 = some .inx ∧
    decodeTableWord 16 0b1111111011100000 = some (.cpx (.imm 0b11111110)) ∧
    decodeTableWord 16 0b1000000011010000 = some (.bne 0b10000000) ∧
    decodeTableWord 24 0b100100000000000100100000 = some (.jsr 0b1001000000000001) ∧
    decodeTableWord 8 0b01001000 = some .pha ∧
    decodeTableWord 8 0b00111000 = some .sec ∧
    decodeTableWord 8 0b10101010 = some .tax ∧
    decodeTableWord 16 0b0000001010010001 = some (.sta (.izy 0b00000010)) ∧
    decodeTableWord 8 0b11101010 = some .nop ∧
    decodeTableWord 8 0b11111111 = some (.xxx 0b11111111) := by decide

/-- Too few bytes are rejected by name. -/
theorem test_decode_rejects_short_lists :
    decode [] = .error .noOpcode ∧ decode [0x69] = .error (.operandMissing 0x69) ∧
    decode [0x20, 0x00] = .error (.operandMissing 0x20) := ⟨rfl, rfl, rfl⟩

/-! ## One step each: the vectors of 95_test_vectors.md 2.1 to 2.4 -/

/-- The start state of those vectors: after reset, one program bank with the code at 0x8000 and every vector 0x8000, the
given A, X, Y, SP, P and the given bytes of RAM. -/
def testState (code : List Byte) (a x y sp p : Byte) (ram : Memory) : State :=
  { State.reset with
    cpu := { State.reset.cpu with a := a, x := x, y := y, sp := sp, p := p, pc := 0x8000 }
    ram := ram
    cart := some ⟨1, 1, 0, Memory.ofBytes 0 code ++ [(0x3FFB, 0x80), (0x3FFD, 0x80), (0x3FFF, 0x80)], []⟩ }

/-- What a vector lists after the step. -/
structure View where
  a : Byte
  x : Byte
  y : Byte
  sp : Byte
  p : Byte
  pc : Word
  cycles : Nat
deriving DecidableEq, Repr

/-- The result is a next state with these registers and cycle count, in which these CPU addresses read these bytes. The
fetch tick is counted by then (R143). -/
def holds (r : Result) (v : View) (bytes : List Host.Cell) : Bool :=
  match r with
  | .next s =>
    (⟨s.cpu.a, s.cpu.x, s.cpu.y, s.cpu.sp, s.cpu.p, s.cpu.pc, s.cpu.remaining + 1⟩ : View) == v &&
      bytes.all fun c => peek s (BitVec.ofNat 16 c.1) == c.2
  | .fault _ => false
  | .refused _ => false

/-- V-ALU-3: ADC #$01. -/
theorem test_v_alu_3_adc :
    holds (step (testState [0x69, 0x01] 0x7F 0 0 0xFD 0x20 []))
      ⟨0x80, 0, 0, 0xFD, 0xE0, 0x8002, 2⟩ [] = true := by decide

/-- V-ALU-4: ADC #$FF. -/
theorem test_v_alu_4_adc :
    holds (step (testState [0x69, 0xFF] 0x80 0 0 0xFD 0x20 []))
      ⟨0x7F, 0, 0, 0xFD, 0x61, 0x8002, 2⟩ [] = true := by decide

/-- V-ALU-8: SBC #$01. -/
theorem test_v_alu_8_sbc :
    holds (step (testState [0xE9, 0x01] 0x80 0 0 0xFD 0x21 []))
      ⟨0x7F, 0, 0, 0xFD, 0x61, 0x8002, 2⟩ [] = true := by decide

/-- V-ALU-9: SBC #$00. -/
theorem test_v_alu_9_sbc :
    holds (step (testState [0xE9, 0x00] 0 0 0 0xFD 0x20 []))
      ⟨0xFF, 0, 0, 0xFD, 0xA0, 0x8002, 2⟩ [] = true := by decide

/-- V-ALU-12: AND #$90. -/
theorem test_v_alu_12_and :
    holds (step (testState [0x29, 0x90] 0xF0 0 0 0xFD 0x20 []))
      ⟨0x90, 0, 0, 0xFD, 0xA0, 0x8002, 2⟩ [] = true := by decide

/-- V-ALU-13: ORA #$80. -/
theorem test_v_alu_13_ora :
    holds (step (testState [0x09, 0x80] 0x01 0 0 0xFD 0x20 []))
      ⟨0x81, 0, 0, 0xFD, 0xA0, 0x8002, 2⟩ [] = true := by decide

/-- V-ALU-15: EOR #$F0. -/
theorem test_v_alu_15_eor :
    holds (step (testState [0x49, 0xF0] 0x0F 0 0 0xFD 0x20 []))
      ⟨0xFF, 0, 0, 0xFD, 0xA0, 0x8002, 2⟩ [] = true := by decide

/-- V-ALU-17: BIT $10. -/
theorem test_v_alu_17_bit :
    holds (step (testState [0x24, 0x10] 0x01 0 0 0xFD 0x20 [(0x0010, 0xC0)]))
      ⟨0x01, 0, 0, 0xFD, 0xE2, 0x8002, 3⟩ [] = true := by decide

/-- V-ALU-18: BIT $10. -/
theorem test_v_alu_18_bit :
    holds (step (testState [0x24, 0x10] 0x40 0 0 0xFD 0x20 [(0x0010, 0x40)]))
      ⟨0x40, 0, 0, 0xFD, 0x60, 0x8002, 3⟩ [] = true := by decide

/-- V-SH-2: ASL A. -/
theorem test_v_sh_2_asl :
    holds (step (testState [0x0A] 0x80 0 0 0xFD 0x20 []))
      ⟨0, 0, 0, 0xFD, 0x23, 0x8001, 2⟩ [] = true := by decide

/-- V-SH-3: ASL $10. -/
theorem test_v_sh_3_asl :
    holds (step (testState [0x06, 0x10] 0 0 0 0xFD 0x20 [(0x0010, 0xC1)]))
      ⟨0, 0, 0, 0xFD, 0xA1, 0x8002, 5⟩ [(0x0010, 0x82)] = true := by decide

/-- V-SH-4: LSR A. -/
theorem test_v_sh_4_lsr :
    holds (step (testState [0x4A] 0x01 0 0 0xFD 0x20 []))
      ⟨0, 0, 0, 0xFD, 0x23, 0x8001, 2⟩ [] = true := by decide

/-- V-SH-5: LSR $10. -/
theorem test_v_sh_5_lsr :
    holds (step (testState [0x46, 0x10] 0 0 0 0xFD 0x20 [(0x0010, 0x80)]))
      ⟨0, 0, 0, 0xFD, 0x20, 0x8002, 5⟩ [(0x0010, 0x40)] = true := by decide

/-- V-SH-7: ROL A. -/
theorem test_v_sh_7_rol :
    holds (step (testState [0x2A] 0x40 0 0 0xFD 0x21 []))
      ⟨0x81, 0, 0, 0xFD, 0xA0, 0x8001, 2⟩ [] = true := by decide

/-- V-SH-9: ROR A. -/
theorem test_v_sh_9_ror :
    holds (step (testState [0x6A] 0 0 0 0xFD 0x21 []))
      ⟨0x80, 0, 0, 0xFD, 0xA0, 0x8001, 2⟩ [] = true := by decide

/-- V-SH-10: ROR $1234,X (no extra). -/
theorem test_v_sh_10_ror :
    holds (step (testState [0x7E, 0xFF, 0x11] 0 0x35 0 0xFD 0x21 [(0x0234, 0x02)]))
      ⟨0, 0x35, 0, 0xFD, 0xA0, 0x8003, 7⟩ [(0x1234, 0x81)] = true := by decide

/-- V-ID-1: INC $10. -/
theorem test_v_id_1_inc :
    holds (step (testState [0xE6, 0x10] 0 0 0 0xFD 0x20 [(0x0010, 0xFF)]))
      ⟨0, 0, 0, 0xFD, 0x22, 0x8002, 5⟩ [(0x0010, 0x00)] = true := by decide

/-- V-ID-3: INC $FE,X (zp wrap). -/
theorem test_v_id_3_inc :
    holds (step (testState [0xF6, 0xFE] 0 0x03 0 0xFD 0x20 [(0x0001, 0x41)]))
      ⟨0, 0x03, 0, 0xFD, 0x20, 0x8002, 6⟩ [(0x0001, 0x42)] = true := by decide

/-- V-ID-4: DEC $10. -/
theorem test_v_id_4_dec :
    holds (step (testState [0xC6, 0x10] 0 0 0 0xFD 0x20 []))
      ⟨0, 0, 0, 0xFD, 0xA0, 0x8002, 5⟩ [(0x0010, 0xFF)] = true := by decide

/-- V-ID-6: INX. -/
theorem test_v_id_6_inx :
    holds (step (testState [0xE8] 0 0xFF 0 0xFD 0x20 []))
      ⟨0, 0, 0, 0xFD, 0x22, 0x8001, 2⟩ [] = true := by decide

/-- V-ID-7: INY. -/
theorem test_v_id_7_iny :
    holds (step (testState [0xC8] 0 0 0x7F 0xFD 0x20 []))
      ⟨0, 0, 0x80, 0xFD, 0xA0, 0x8001, 2⟩ [] = true := by decide

/-- V-ID-8: DEX. -/
theorem test_v_id_8_dex :
    holds (step (testState [0xCA] 0 0 0 0xFD 0x20 []))
      ⟨0, 0xFF, 0, 0xFD, 0xA0, 0x8001, 2⟩ [] = true := by decide

/-- V-ID-9: DEY. -/
theorem test_v_id_9_dey :
    holds (step (testState [0x88] 0 0 0x01 0xFD 0x20 []))
      ⟨0, 0, 0, 0xFD, 0x22, 0x8001, 2⟩ [] = true := by decide

/-- V-CMP-2: CMP #$FF. -/
theorem test_v_cmp_2_cmp :
    holds (step (testState [0xC9, 0xFF] 0 0 0 0xFD 0x20 []))
      ⟨0, 0, 0, 0xFD, 0x20, 0x8002, 2⟩ [] = true := by decide

/-- V-CMP-5: CMP $10FF,X (page cross). -/
theorem test_v_cmp_5_cmp :
    holds (step (testState [0xDD, 0xFF, 0x10] 0x05 0x01 0 0xFD 0x20 [(0x0100, 0x05)]))
      ⟨0x05, 0x01, 0, 0xFD, 0x23, 0x8003, 5⟩ [] = true := by decide

/-- V-CMP-6: CPX #$10. -/
theorem test_v_cmp_6_cpx :
    holds (step (testState [0xE0, 0x10] 0 0x20 0 0xFD 0x20 []))
      ⟨0, 0x20, 0, 0xFD, 0x21, 0x8002, 2⟩ [] = true := by decide

/-- V-CMP-7: CPY #$80. -/
theorem test_v_cmp_7_cpy :
    holds (step (testState [0xC0, 0x80] 0 0 0x7F 0xFD 0x20 []))
      ⟨0, 0, 0x7F, 0xFD, 0xA0, 0x8002, 2⟩ [] = true := by decide

/-- V-BR-1: BNE +5 (taken). -/
theorem test_v_br_1_bne :
    holds (step (testState [0xD0, 0x05] 0 0 0 0xFD 0x20 []))
      ⟨0, 0, 0, 0xFD, 0x20, 0x8007, 3⟩ [] = true := by decide

/-- V-BR-2: BNE +5 (not taken). -/
theorem test_v_br_2_bne :
    holds (step (testState [0xD0, 0x05] 0 0 0 0xFD 0x22 []))
      ⟨0, 0, 0, 0xFD, 0x22, 0x8002, 2⟩ [] = true := by decide

/-- V-BR-3: BEQ -2 (to itself). -/
theorem test_v_br_3_beq :
    holds (step (testState [0xF0, 0xFE] 0 0 0 0xFD 0x22 []))
      ⟨0, 0, 0, 0xFD, 0x22, 0x8000, 3⟩ [] = true := by decide

/-- V-BR-4: BCC -128 (page cross). -/
theorem test_v_br_4_bcc :
    holds (step (testState [0x90, 0x80] 0 0 0 0xFD 0x20 []))
      ⟨0, 0, 0, 0xFD, 0x20, 0x7F82, 4⟩ [] = true := by decide

/-- V-BR-5: BCS +5. -/
theorem test_v_br_5_bcs :
    holds (step (testState [0xB0, 0x05] 0 0 0 0xFD 0x21 []))
      ⟨0, 0, 0, 0xFD, 0x21, 0x8007, 3⟩ [] = true := by decide

/-- V-BR-6: BMI +5. -/
theorem test_v_br_6_bmi :
    holds (step (testState [0x30, 0x05] 0 0 0 0xFD 0xA0 []))
      ⟨0, 0, 0, 0xFD, 0xA0, 0x8007, 3⟩ [] = true := by decide

/-- V-BR-7: BPL +5. -/
theorem test_v_br_7_bpl :
    holds (step (testState [0x10, 0x05] 0 0 0 0xFD 0xA0 []))
      ⟨0, 0, 0, 0xFD, 0xA0, 0x8002, 2⟩ [] = true := by decide

/-- V-BR-8: BVC +5. -/
theorem test_v_br_8_bvc :
    holds (step (testState [0x50, 0x05] 0 0 0 0xFD 0x20 []))
      ⟨0, 0, 0, 0xFD, 0x20, 0x8007, 3⟩ [] = true := by decide

/-- V-BR-9: BVS +5. -/
theorem test_v_br_9_bvs :
    holds (step (testState [0x70, 0x05] 0 0 0 0xFD 0x60 []))
      ⟨0, 0, 0, 0xFD, 0x60, 0x8007, 3⟩ [] = true := by decide

/-- V-ST-2: PHA (SP=0). -/
theorem test_v_st_2_pha :
    holds (step (testState [0x48] 0x42 0 0 0x00 0x20 []))
      ⟨0x42, 0, 0, 0xFF, 0x20, 0x8001, 3⟩ [(0x0100, 0x42)] = true := by decide

/-- V-ST-3: PHP. -/
theorem test_v_st_3_php :
    holds (step (testState [0x08] 0 0 0 0xFD 0x21 []))
      ⟨0, 0, 0, 0xFC, 0x21, 0x8001, 3⟩ [(0x01FD, 0x31)] = true := by decide

/-- V-ST-5: PLA (SP=0xFF). -/
theorem test_v_st_5_pla :
    holds (step (testState [0x68] 0 0 0 0xFF 0x20 [(0x0100, 0x80)]))
      ⟨0x80, 0, 0, 0x00, 0xA0, 0x8001, 4⟩ [] = true := by decide

/-- V-ST-6: PLP. -/
theorem test_v_st_6_plp :
    holds (step (testState [0x28] 0 0 0 0xFC 0x20 [(0x01FD, 0xC3)]))
      ⟨0, 0, 0, 0xFD, 0xC3, 0x8001, 4⟩ [] = true := by decide

/-- V-CT-1: JMP $1234. -/
theorem test_v_ct_1_jmp :
    holds (step (testState [0x4C, 0x34, 0x12] 0 0 0 0xFD 0x20 []))
      ⟨0, 0, 0, 0xFD, 0x20, 0x1234, 3⟩ [] = true := by decide

/-- V-CT-2: JMP ($02FF) (page bug). -/
theorem test_v_ct_2_jmp :
    holds (step (testState [0x6C, 0xFF, 0x02] 0 0 0 0xFD 0x20 [(0x0200, 0x12), (0x02FF, 0x34), (0x0300, 0x56)]))
      ⟨0, 0, 0, 0xFD, 0x20, 0x1234, 5⟩ [] = true := by decide

/-- V-CT-3: JSR $9000. -/
theorem test_v_ct_3_jsr :
    holds (step (testState [0x20, 0x00, 0x90] 0 0 0 0xFD 0x20 []))
      ⟨0, 0, 0, 0xFB, 0x20, 0x9000, 6⟩ [(0x01FD, 0x80), (0x01FC, 0x02)] = true := by decide

/-- V-CT-4: RTS. -/
theorem test_v_ct_4_rts :
    holds (step (testState [0x60] 0 0 0 0xFB 0x20 [(0x01FC, 0x02), (0x01FD, 0x80)]))
      ⟨0, 0, 0, 0xFD, 0x20, 0x8003, 6⟩ [] = true := by decide

/-- V-CT-5: RTI. -/
theorem test_v_ct_5_rti :
    holds (step (testState [0x40] 0 0 0 0xFA 0x20 [(0x01FB, 0xF1), (0x01FC, 0x23), (0x01FD, 0x81)]))
      ⟨0, 0, 0, 0xFD, 0xC1, 0x8123, 6⟩ [] = true := by decide

/-- V-CT-6: BRK. -/
theorem test_v_ct_6_brk :
    holds (step (testState [0x00, 0xEA] 0 0 0 0xFD 0x20 []))
      ⟨0, 0, 0, 0xFA, 0x24, 0x8000, 7⟩ [(0x01FD, 0x80), (0x01FC, 0x02), (0x01FB, 0x30)] = true := by decide

/-- V-FL-1: CLC. -/
theorem test_v_fl_1_clc :
    holds (step (testState [0x18] 0 0 0 0xFD 0x21 []))
      ⟨0, 0, 0, 0xFD, 0x20, 0x8001, 2⟩ [] = true := by decide

/-- V-FL-2: SEC. -/
theorem test_v_fl_2_sec :
    holds (step (testState [0x38] 0 0 0 0xFD 0x20 []))
      ⟨0, 0, 0, 0xFD, 0x21, 0x8001, 2⟩ [] = true := by decide

/-- V-FL-3: CLI. -/
theorem test_v_fl_3_cli :
    holds (step (testState [0x58] 0 0 0 0xFD 0x24 []))
      ⟨0, 0, 0, 0xFD, 0x20, 0x8001, 2⟩ [] = true := by decide

/-- V-FL-4: SEI. -/
theorem test_v_fl_4_sei :
    holds (step (testState [0x78] 0 0 0 0xFD 0x20 []))
      ⟨0, 0, 0, 0xFD, 0x24, 0x8001, 2⟩ [] = true := by decide

/-- V-FL-5: CLD. -/
theorem test_v_fl_5_cld :
    holds (step (testState [0xD8] 0 0 0 0xFD 0x28 []))
      ⟨0, 0, 0, 0xFD, 0x20, 0x8001, 2⟩ [] = true := by decide

/-- V-FL-6: SED. -/
theorem test_v_fl_6_sed :
    holds (step (testState [0xF8] 0 0 0 0xFD 0x20 []))
      ⟨0, 0, 0, 0xFD, 0x28, 0x8001, 2⟩ [] = true := by decide

/-- V-FL-7: CLV. -/
theorem test_v_fl_7_clv :
    holds (step (testState [0xB8] 0 0 0 0xFD 0x60 []))
      ⟨0, 0, 0, 0xFD, 0x20, 0x8001, 2⟩ [] = true := by decide

/-- V-TR-1: TAX. -/
theorem test_v_tr_1_tax :
    holds (step (testState [0xAA] 0 0x55 0 0xFD 0x20 []))
      ⟨0, 0, 0, 0xFD, 0x22, 0x8001, 2⟩ [] = true := by decide

/-- V-TR-2: TAY. -/
theorem test_v_tr_2_tay :
    holds (step (testState [0xA8] 0x80 0 0 0xFD 0x20 []))
      ⟨0x80, 0, 0x80, 0xFD, 0xA0, 0x8001, 2⟩ [] = true := by decide

/-- V-TR-3: TXA. -/
theorem test_v_tr_3_txa :
    holds (step (testState [0x8A] 0 0x01 0 0xFD 0x22 []))
      ⟨0x01, 0x01, 0, 0xFD, 0x20, 0x8001, 2⟩ [] = true := by decide

/-- V-TR-4: TYA. -/
theorem test_v_tr_4_tya :
    holds (step (testState [0x98] 0 0 0xFF 0xFD 0x20 []))
      ⟨0xFF, 0, 0xFF, 0xFD, 0xA0, 0x8001, 2⟩ [] = true := by decide

/-- V-TR-5: TSX. -/
theorem test_v_tr_5_tsx :
    holds (step (testState [0xBA] 0 0 0 0xFD 0x20 []))
      ⟨0, 0xFD, 0, 0xFD, 0xA0, 0x8001, 2⟩ [] = true := by decide

/-- V-TR-6: TXS. -/
theorem test_v_tr_6_txs :
    holds (step (testState [0x9A] 0 0 0 0xFD 0xA0 []))
      ⟨0, 0, 0, 0x00, 0xA0, 0x8001, 2⟩ [] = true := by decide

/-- V-LD-2: LDA $10FF,X (page cross). -/
theorem test_v_ld_2_lda :
    holds (step (testState [0xBD, 0xFF, 0x10] 0 0x01 0 0xFD 0x20 [(0x0100, 0x80)]))
      ⟨0x80, 0x01, 0, 0xFD, 0xA0, 0x8003, 5⟩ [] = true := by decide

/-- V-LD-4: LDA ($FE,X) (ptr wrap). -/
theorem test_v_ld_4_lda :
    holds (step (testState [0xA1, 0xFE] 0 0x01 0 0xFD 0x20 [(0x0000, 0x02), (0x00FF, 0x34), (0x0234, 0x99)]))
      ⟨0x99, 0x01, 0, 0xFD, 0xA0, 0x8002, 6⟩ [] = true := by decide

/-- V-LD-6: LDX $FF,Y (zp wrap). -/
theorem test_v_ld_6_ldx :
    holds (step (testState [0xB6, 0xFF] 0 0 0x02 0xFD 0x20 [(0x0001, 0xFF)]))
      ⟨0, 0xFF, 0x02, 0xFD, 0xA0, 0x8002, 4⟩ [] = true := by decide

/-- V-LD-7: LDY #$7F. -/
theorem test_v_ld_7_ldy :
    holds (step (testState [0xA0, 0x7F] 0 0 0 0xFD 0x20 []))
      ⟨0, 0, 0x7F, 0xFD, 0x20, 0x8002, 2⟩ [] = true := by decide

/-- V-SS-2: STA $10FF,X (fixed 5). -/
theorem test_v_ss_2_sta :
    holds (step (testState [0x9D, 0xFF, 0x10] 0x0F 0x01 0 0xFD 0x20 []))
      ⟨0x0F, 0x01, 0, 0xFD, 0x20, 0x8003, 5⟩ [(0x1100, 0x0F)] = true := by decide

/-- V-SS-4: STA $8000 (ROM). -/
theorem test_v_ss_4_sta :
    holds (step (testState [0x8D, 0x00, 0x80] 0x77 0 0 0xFD 0x20 []))
      ⟨0x77, 0, 0, 0xFD, 0x20, 0x8003, 4⟩ [(0x8000, 0x8D)] = true := by decide

/-- V-SS-5: STX $00. -/
theorem test_v_ss_5_stx :
    holds (step (testState [0x86, 0x00] 0 0xAB 0 0xFD 0x20 []))
      ⟨0, 0xAB, 0, 0xFD, 0x20, 0x8002, 3⟩ [(0x0000, 0xAB)] = true := by decide

/-- V-SS-6: STY $94,X. -/
theorem test_v_ss_6_sty :
    holds (step (testState [0x94, 0x94] 0 0x70 0x01 0xFD 0x20 []))
      ⟨0, 0x70, 0x01, 0xFD, 0x20, 0x8002, 4⟩ [(0x0004, 0x01)] = true := by decide

/-- V-NOP-1: NOP. -/
theorem test_v_nop_1_nop :
    holds (step (testState [0xEA] 0 0 0 0xFD 0x20 []))
      ⟨0, 0, 0, 0xFD, 0x20, 0x8001, 2⟩ [] = true := by decide

/-- V-NOP-2: ??? (0x02). -/
theorem test_v_nop_2_placeholder :
    holds (step (testState [0x02] 0 0 0 0xFD 0x20 []))
      ⟨0, 0, 0, 0xFD, 0x20, 0x8001, 2⟩ [] = true := by decide

/-- R340, R341: NOP and the placeholder leave the scratch fields too. -/
theorem test_no_operation_keeps_scratch :
    let s := (State.reset.setTemp 0x1234).setFetched 0x56
    exec .nop s = .next (s.setRemaining 2) ∧ exec (.xxx 0x02) s = .next (s.setRemaining 2) := ⟨rfl, rfl⟩

/-! ## The step, interrupts, ports, timer, reset -/

/-- The first step after reset runs the instruction placed, `INX` here, and nothing else is fetched. -/
theorem test_fetch_word_runs :
    holds (step (State.reset.withFetchWord 8 0xE8)) ⟨0, 0x01, 0, 0xFD, 0x20, 0x0001, 2⟩ [] = true := by decide

/-- Where PC points into the ports the word goes to RAM. -/
theorem test_fetch_word_from_ports :
    holds (step ((State.reset.setPC 0x2000).withFetchWord 16 0x42A9)) ⟨0x42, 0, 0, 0xFD, 0x20, 0x0002, 2⟩ [] = true := by
  decide

/-- V-RS-4: reset with no cartridge. -/
theorem test_v_rs_4_reset :
    hostCall .reset (State.powerOn Params.default [] ⟨[], [], []⟩) = .next State.reset := by rfl

/-- V-INT-1: `irq`. The interrupted state has PC = 0x8234, so the code is not at PC. -/
theorem test_v_int_1_irq :
    holds (irq ((testState [] 0 0 0 0xFD 0x21 []).setPC 0x8234)) ⟨0, 0, 0, 0xFA, 0x25, 0x8000, 8⟩
      [(0x01FD, 0x82), (0x01FC, 0x34), (0x01FB, 0x21)] = true := by decide

/-- V-INT-3 and V-INT-4: `nmi` with B and I set. -/
theorem test_v_int_3_nmi :
    holds (nmi ((testState [] 0 0 0 0xFD 0xB4 []).setPC 0x8234)) ⟨0, 0, 0, 0xFA, 0xA4, 0x8000, 9⟩
      [(0x01FD, 0x82), (0x01FC, 0x34), (0x01FB, 0xA4)] = true := by decide

/-- V-PT-1: the first STATUS read. -/
theorem test_v_pt_1_status :
    (memRead (State.reset.setGfx { State.reset.gfx with status := 0x80, buffer := 0x3F, latch := true }) 0x2002) =
      (0x9F, State.reset.setGfx { State.reset.gfx with status := 0x00, buffer := 0x3F, latch := true }) := by decide

/-- V-PT-3: three PPU-ADDRESS writes. -/
theorem test_v_pt_3_address :
    memWrite (memWrite (memWrite State.reset 0x2006 0x21) 0x2006 0x08) 0x2006 0x3F =
      State.reset.setGfx { State.reset.gfx with v := 0x3F08, latch := true } := by decide

/-- V-PT-5: the second PPU-DATA read gives the byte of name table 1 that 0x2C00 reaches. -/
theorem test_v_pt_5_data :
    let s := State.reset.setGfx { State.reset.gfx with v := 0x2C00, nametable := [(1024, 0x11), (1025, 0x22)] }
    (memRead s 0x2007).1 = 0x00 ∧ (memRead (memRead s 0x2007).2 0x2007).1 = 0x11 ∧
    (memRead (memRead s 0x2007).2 0x2007).2.gfx.v = 0x2C02 ∧
    (memRead (memRead s 0x2007).2 0x2007).2.gfx.buffer = 0x22 := by decide

/-- V-PT-6: the palette alias. -/
theorem test_v_pt_6_palette :
    (memWrite (State.reset.setGfx { State.reset.gfx with v := 0x3F10 }) 0x2007 0x0D).gfx =
      { State.reset.gfx with v := 0x3F11, palette := [(0, 0x0D)] } := by decide

/-- V-PT-13: a write with graphics ROM lands in the pattern table, and a read does not find it. -/
theorem test_v_pt_13_pattern :
    let s := testState [] 0 0 0 0xFD 0 []
    (ppuWrite s 0x0010 0x99).gfx.pattern = [(0x0010, 0x99)] ∧ (ppuWrite s 0x0010 0x99).cart = s.cart ∧
    ppuRead (ppuWrite s 0x0010 0x99) 0x0010 = 0x00 := by decide

/-- V-PT-15: what the source does not define. -/
theorem test_v_pt_15_undefined_ports :
    memWrite State.reset 0x2003 0x55 = State.reset ∧ memWrite State.reset 0x2005 0x55 = State.reset ∧
    memRead State.reset 0x2000 = (0x00, State.reset) ∧ memRead State.reset 0x2001 = (0x00, State.reset) ∧
    memRead State.reset 0x2006 = (0x00, State.reset) := by decide

/-- V-TM-2 and V-TM-3: the end of a line, and the vertical blank. -/
theorem test_v_tm_2_timer :
    (timerTick (State.reset.setTimer ⟨0, 340, false⟩)).timer = ⟨1, 0, false⟩ ∧
    (timerTick (State.reset.setTimer ⟨241, 1, false⟩)).timer = ⟨241, 2, false⟩ ∧
    (timerTick (State.reset.setTimer ⟨241, 1, false⟩)).gfx.status = 0x80 ∧
    (timerTick (State.reset.setTimer ⟨260, 340, false⟩)).timer = ⟨-1, 0, true⟩ := by decide

/-- V-CK-1: one clock group. -/
theorem test_v_ck_1_group :
    ((match clockGroup (testState [0xEA] 0 0 0 0xFD 0x00 []) with
      | .next t => some (t.timer, t.cpu.pc, t.cpu.remaining, t.cpu.totalCycles)
      | _ => none) = some (⟨0, 3, false⟩, 0x8001, 1, 1)) := by decide

/-- V-LD-IMG-5, 6 and 8, and an image shorter than a header, as headers alone. -/
theorem test_fatal_loads :
    hostCall (.loadCartridge [0, 0, 0, 0, 1, 1, 0x10, 0, 0, 0, 0, 0, 0, 0, 0, 0]) State.reset =
      .fault .unsupportedMapper ∧
    hostCall (.loadCartridge [0, 0, 0, 0, 1, 1, 0, 0x10, 0, 0, 0, 0, 0, 0, 0, 0]) State.reset =
      .fault .unsupportedMapper ∧
    hostCall (.loadCartridge [0, 0, 0, 0, 0, 1, 0, 0, 0, 0, 0, 0, 0, 0, 0, 0]) State.reset = .fault .noProgramBank ∧
    hostCall (.loadCartridge [0, 0, 0, 0, 1]) State.reset = .fault .lengthMismatch := ⟨rfl, rfl, rfl, rfl⟩

/-! ## Witnesses: states and operands that meet what each statement assumes -/

/-- A state with a one-bank cartridge that has the invariant. -/
theorem witness_inv : (testState [0xEA, 0xFF] 1 2 3 0xFD 0x21 [(0x10, 0xFF)]).Inv := by
  refine ⟨by decide, by decide, fun c hc => ?_, ⟨by decide, by decide, by decide, by decide, by decide, by decide,
    by decide, by decide⟩, ⟨by decide, by decide, by decide⟩⟩
  cases hc
  exact ⟨by decide, by decide, by decide, by decide, by decide, by decide⟩

/-- DecodeOfEncode, DescriptorMatchesEncoding. -/
theorem witness_DecodeOfEncode :
    (Instr.xxx 0x02).wellFormed = true ∧ (Instr.xxx 0xFF).wellFormed = true ∧
    (Instr.adc (.imm 0xFF)).wellFormed = true := by decide

theorem witness_EncodeOfDecode : decode [0x20, 0xFF, 0x00, 0x99] = .ok (.jsr 0x00FF, [0x99]) := by rfl

theorem witness_UndocumentedOpcodes : isUndocumented 0x02 = true ∧ isUndocumented 0xFF = true := by decide

/-- A three-byte instruction that ends at 0x1FFF, the last address before the ports, and one at 0xFFFE that wraps. -/
theorem witness_StepRunsDecodedInstruction :
    (∃ s : State, s.wasReset = true ∧ s.cpu.remaining = 0 ∧ s.cpu.pc = 0x1FFD ∧
      (∀ k, k < (encode (.lda (.abs 0x1234))).length → ¬ IsPortAddress (s.cpu.pc + BitVec.ofNat 16 k)) ∧
      decode [peek s s.cpu.pc, peek s (s.cpu.pc + 1), peek s (s.cpu.pc + 2)] = .ok (.lda (.abs 0x1234), [])) ∧
    (∃ s : State, s.wasReset = true ∧ s.cpu.remaining = 0 ∧ s.cpu.pc = 0xFFFE ∧
      (∀ k, k < (encode .brk).length → ¬ IsPortAddress (s.cpu.pc + BitVec.ofNat 16 k)) ∧
      decode [peek s s.cpu.pc, peek s (s.cpu.pc + 1), peek s (s.cpu.pc + 2)] = .ok (.brk, [0x80, 0x00])) := by
  refine ⟨⟨(State.reset.setRam [(0x7FD, 0xAD), (0x7FE, 0x34), (0x7FF, 0x12)]).setPC 0x1FFD, rfl, rfl, rfl, ?_, rfl⟩,
    ⟨(testState [] 0 0 0 0xFD 0 []).setPC 0xFFFE, rfl, rfl, rfl, ?_, rfl⟩⟩
  · intro k hk
    have : k = 0 ∨ k = 1 ∨ k = 2 := by simp only [encode, Instr.operand, AluForm.operand, Operand.bytes,
      List.length_cons, List.length_nil] at hk; omega
    rcases this with rfl | rfl | rfl <;> exact fun h => absurd h.1 (by decide)
  · intro k hk
    have : k = 0 := by simp only [encode, Instr.operand, Operand.bytes, List.length_cons, List.length_nil] at hk; omega
    subst this
    exact fun h => absurd h.2 (by decide)

/-- With PC at a port, too. -/
theorem witness_StepFetchesInOrder :
    (State.reset.setPC 0x2007).wasReset = true ∧ (State.reset.setPC 0x2007).cpu.remaining = 0 := by decide

theorem witness_StepFinishesInstructionFirst :
    (State.reset.setRemaining 8).wasReset = true ∧ (State.reset.setRemaining 8).cpu.remaining = 8 := by decide

theorem witness_StepCompletes :
    State.reset.wasReset = true ∧ (State.powerOn Params.default [] ⟨[], [], []⟩).wasReset = false := by decide

/-- StepKeepsInv: a step from a state with the invariant is a next state. -/
theorem witness_StepKeepsInv :
    (testState [0xEA, 0xFF] 1 2 3 0xFD 0x21 [(0x10, 0xFF)]).Inv ∧
    ∃ t, step (testState [0xEA, 0xFF] 1 2 3 0xFD 0x21 [(0x10, 0xFF)]) = .next t := ⟨witness_inv, _, rfl⟩

theorem witness_HostCallsKeepInv :
    (testState [0xEA, 0xFF] 1 2 3 0xFD 0x21 [(0x10, 0xFF)]).Inv ∧
    ∃ t, hostCall .nmi (testState [0xEA, 0xFF] 1 2 3 0xFD 0x21 [(0x10, 0xFF)]) = .next t := ⟨witness_inv, _, rfl⟩

/-- `nmi` reaches the bound. -/
theorem witness_RemainingStaysBounded :
    State.reset.CyclesBounded ∧ ∃ t, hostCall .nmi State.reset = .next t ∧ t.cpu.remaining = 8 := by
  refine ⟨⟨fun opcode => ?_, by decide⟩, _, rfl, rfl⟩
  show 2 + 0 ≤ 8
  decide

/-- A cartridge with graphics ROM, one with graphics RAM, and none. -/
theorem witness_StepKeepsCartridge :
    (∃ t, step State.reset = .next t ∧ State.reset.cart = none) ∧
    (∃ t c, step (testState [0xEA] 0 0 0 0xFD 0 []) = .next t ∧ (testState [0xEA] 0 0 0 0xFD 0 []).cart = some c ∧
      c.chrIsRam = false) ∧
    (∃ t c, step (State.reset.setCart (some ⟨1, 0, 0, [], []⟩)) = .next t ∧
      (State.reset.setCart (some ⟨1, 0, 0, [], []⟩)).cart = some c ∧ c.chrIsRam = true) :=
  ⟨⟨_, rfl, rfl⟩, ⟨_, _, rfl, rfl, rfl⟩, ⟨_, _, rfl, rfl, rfl⟩⟩

theorem witness_ScratchIsNeverRead :
    SameButScratch State.reset ((State.reset.setAddrAbs 0x1234).setFreeCount 9) ∧
    State.reset ≠ (State.reset.setAddrAbs 0x1234).setFreeCount 9 := ⟨rfl, by decide⟩

theorem witness_DecimalFlagIsIgnored :
    (∃ t, exec .plp State.reset = .next t ∧ Instr.mnemonic .plp ∈ [.plp, .rti, .cld, .sed]) ∧
    (∃ t, exec (.adc (.imm 0x01)) State.reset = .next t ∧
      Instr.mnemonic (.adc (.imm 0x01)) ∉ [.plp, .rti, .cld, .sed, .php, .brk]) :=
  ⟨⟨_, rfl, by decide⟩, ⟨_, rfl, by decide⟩⟩

/-- V-AM-2 to V-AM-18: the effective addresses, at the wraps. -/
theorem witness_EffectiveAddresses :
    effectiveAddress (.lda (.imm 0x42)) (State.reset.setPC 0x8002) = 0x8001 ∧
    effectiveAddress (.lda (.zpx 0xFF)) (State.reset.setX 0x02) = 0x0001 ∧
    effectiveAddress (.ldx (.zpy 0x80)) (State.reset.setY 0x90) = 0x0010 ∧
    (effectiveAddress (.lda (.abx 0xFFFF)) (State.reset.setX 0x01) = 0x0000 ∧
      (resolved (.lda (.abx 0xFFFF)) (State.reset.setX 0x01)).2 = true) ∧
    effectiveAddress (.jmp (.ind 0x02FF)) (State.reset.setRam [(0x200, 0x12), (0x2FF, 0x34), (0x300, 0x56)]) = 0x1234 ∧
    effectiveAddress (.lda (.izx 0x80)) ((State.reset.setX 0x7F).setRam [(0x00, 0x03)]) = 0x0300 ∧
    (effectiveAddress (.ora (.izy 0xFF)) ((State.reset.setY 0x10).setRam [(0x00, 0x02), (0xFF, 0xF8)]) = 0x0308 ∧
      (resolved (.ora (.izy 0xFF)) ((State.reset.setY 0x10).setRam [(0x00, 0x02), (0xFF, 0xF8)])).2 = true) := by decide

theorem witness_OperandValues :
    Instr.operand (.asl .acc) = .imp ∧ Instr.operand (.lda (.imm 0x42)) = .imm 0x42 ∧
    (Instr.operand (.lda (.abs 0x2002))).mode ∉ [.imp, .imm, .rel, .ind] ∧
    (Instr.operand (.lda (.abs 0x2002))).mode ≠ .ind := by decide

/-- The ends of the range, and two aliases of one byte. -/
theorem witness_RamIsMirrored :
    (0x0000 : Word).toNat ≤ 0x1FFF ∧ (0x1FFF : Word).toNat ≤ 0x1FFF ∧
    (0x1FFF : Word) &&& 0x07FF = 0x07FF &&& 0x07FF ∧ Memory.wf State.reset.ram := by decide

theorem witness_OpenBus :
    (0x4000 ≤ (0x4000 : Word).toNat ∧ (0x7FFF : Word).toNat ≤ 0x7FFF) ∧
    (0x4000 ≤ (0xFFFF : Word).toNat ∧ State.reset.cart = none) := by decide

/-- P = 1 and P = 2, the ends of the mapped range, the address below it, and V-NR-1, V-NR-2. -/
theorem witness_ProgramRomReads :
    (∃ c, (testState [0x11] 0 0 0 0xFD 0 []).cart = some c ∧ c.prgBanks = 1 ∧ c.Inv) ∧
    0x8000 ≤ (0x8000 : Word).toNat ∧ 0x8000 ≤ (0xFFFF : Word).toNat ∧ (0x7FFF : Word).toNat < 0x8000 ∧
    peek (testState [0x11] 0 0 0 0xFD 0 []) 0xC000 = 0x11 ∧
    peek (State.reset.setCart (some ⟨2, 1, 0, [(0, 0x11), (0x4000, 0x22)], []⟩)) 0x8000 = 0x11 ∧
    peek (State.reset.setCart (some ⟨2, 1, 0, [(0, 0x11), (0x4000, 0x22)], []⟩)) 0xC000 = 0x22 :=
  ⟨⟨_, rfl, rfl, by decide, by decide, by decide, by decide, by decide, by decide⟩, by decide, by decide, by decide,
    by decide, by decide, by decide⟩

/-- Neighbours of the port window, a silent port, and the four ports whose writes are ignored. -/
theorem witness_SideEffectsOfAccesses :
    ¬ IsPortAddress 0x1FFF ∧ IsPortAddress 0x2000 ∧ IsPortAddress 0x3FFF ∧ ¬ IsPortAddress 0x4000 ∧
    (0x2006 : Word).toNat % 8 ∈ [0, 1, 3, 4, 5, 6] ∧ (0x2000 : Word).toNat % 8 ∈ [0, 1, 3, 4, 5, 6] ∧
    (0x3FFA : Word).toNat % 8 ∈ [2, 3, 4, 5] ∧ (0x2005 : Word).toNat % 8 ∈ [2, 3, 4, 5] ∧
    0x8000 ≤ (0x8000 : Word).toNat := by
  refine ⟨fun h => absurd h.1 (by decide), ⟨by decide, by decide⟩, ⟨by decide, by decide⟩,
    fun h => absurd h.2 (by decide), by decide, by decide, by decide, by decide, by decide⟩

/-- ShiftsAndRotates, MemoryIncrements, StackInstructions, Call, SoftwareInterrupt, Stores: RAM in canonical form. -/
theorem witness_canonical_ram : Memory.wf State.reset.ram ∧ Memory.wf [(0x10, 0xFF), (0x7FF, 0x01)] := by decide

/-- The corner cases of the four rules. -/
theorem witness_IndexIncrements :
    (State.reset.setX 0xFF).cpu.x = 0xFF ∧ (State.reset.setX 0x7F).cpu.x = 0x7F ∧ (State.reset.setY 0xFF).cpu.y = 0xFF ∧
    State.reset.cpu.x = 0x00 ∧ State.reset.cpu.y = 0x00 ∧ (State.reset.setX 0x01).cpu.x = 0x01 ∧
    (State.reset.setY 0x80).cpu.y = 0x80 := by decide

/-- Each way a branch goes; the taken ones of V-BR-3 and V-BR-4. -/
theorem witness_Branches :
    (State.reset.setP 0x22).flag .z = true ∧ (State.reset.setP 0x20).flag .c = false ∧
    (State.reset.setP 0x21).flag .c ≠ false := by decide

theorem witness_InterruptEntry :
    Memory.wf State.reset.ram ∧ State.reset.cpu.remaining = 0 ∧ State.reset.flag .i = false := by decide

theorem witness_InterruptsMaskedOrRefused :
    ((State.reset.setP 0x24).cpu.remaining = 0 ∧ (State.reset.setP 0x24).flag .i = true) ∧
    (State.reset.setRemaining 3).cpu.remaining ≠ 0 := by decide

/-- The state right after each kind of entry, itself the one that returns. -/
theorem witness_ReturnUndoesEntry :
    Memory.wf State.reset.ram ∧
    (∃ t, exec (.jsr 0x9000) State.reset = .next t ∧ t.cpu.sp = t.cpu.sp ∧ SameStackPage t t) ∧
    (∃ t, irq State.reset = .next t ∧ State.reset.flag .i = false ∧ SameStackPage t t) ∧
    (∃ t, nmi State.reset = .next t ∧ SameStackPage t t) ∧
    (∃ t, exec .brk State.reset = .next t ∧ SameStackPage t t) :=
  ⟨by decide, ⟨_, rfl, rfl, fun _ => rfl⟩, ⟨_, rfl, rfl, fun _ => rfl⟩, ⟨_, rfl, fun _ => rfl⟩, ⟨_, rfl, fun _ => rfl⟩⟩

theorem witness_FlagInstructions :
    ((.clc, .c, false) : Instr × Flag × Bool) ∈ ([(.clc, .c, false), (.sec, .c, true), (.cli, .i, false),
      (.sei, .i, true), (.cld, .d, false), (.sed, .d, true), (.clv, .v, false)] : List (Instr × Flag × Bool)) := by
  decide

/-- The smallest image a load accepts: a header with one program bank, and the bank. -/
def smallImage : List Byte := [0, 0, 0, 0, 1, 0, 0, 0, 0, 0, 0, 0, 0, 0, 0, 0] ++ List.replicate 16384 0x11

/-- CartridgeLoadAccepts and LoadedCartridge: a load that succeeds, and one for each fatal reason. -/
theorem witness_CartridgeLoadAccepts :
    (∃ t, hostCall (.loadCartridge smallImage) State.reset = .next t) ∧
    (∃ s : State, s.params.validateMagic = true ∧
      hostCall (.loadCartridge [0, 0, 0, 0, 1, 0, 0, 0, 0, 0, 0, 0, 0, 0, 0, 0]) s = .fault .badMagic) := by
  refine ⟨?_, { State.reset with params := { Params.default with validateMagic := true } }, by decide, rfl⟩
  have h : parseImage Params.default smallImage = .ok (imageCartridge Params.default smallImage) := by
    have hl : smallImage.length = 16400 := by rw [smallImage, List.length_append, List.length_replicate]; rfl
    simp only [parseImage, hl]
    rfl
  refine ⟨State.reset.setCart (some (imageCartridge Params.default smallImage)), ?_⟩
  simp only [hostCall, loadCartridge, show State.reset.params = Params.default from rfl, h]

/-- The ends of each range of graphics addresses, and a machine with graphics ROM, with graphics RAM and with no
cartridge; DataPort's clauses about the cartridge as well. -/
theorem witness_GraphicsAddresses :
    ((testState [] 0 0 0 0xFD 0 []).cart = some ⟨1, 1, 0, [(0x3FFB, 0x80), (0x3FFD, 0x80), (0x3FFF, 0x80)], []⟩ ∧
      (1 : Byte) ≠ 0) ∧
    (State.reset.setCart (some ⟨1, 0, 0, [], []⟩)).cart = some ⟨1, 0, 0, [], []⟩ ∧ State.reset.cart = none ∧
    State.reset.params.nametableFlips = [] ∧
    (0x5FFF : Word).toNat % 16384 < 8192 ∧
    (8192 ≤ (0x2000 : Word).toNat % 16384 ∧ (0x3EFF : Word).toNat % 16384 < 16128) ∧
    (16128 ≤ (0x3F00 : Word).toNat % 16384 ∧ 16128 ≤ (0xFFFF : Word).toNat % 16384) ∧
    paletteEntry 0x3F3C = 12 ∧ nameTable Params.default 0x2800 = 0 ∧ nameTable Params.default 0x2C00 = 1 := by decide

/-- StatusPort, AddressPort, DataPort, ControlAndMaskPorts: the first and the last mirror of each port. -/
theorem witness_ports :
    (IsPortAddress 0x2002 ∧ (0x2002 : Word).toNat % 8 = 2 ∧ IsPortAddress 0x3FFA ∧ (0x3FFA : Word).toNat % 8 = 2) ∧
    (IsPortAddress 0x2006 ∧ (0x2006 : Word).toNat % 8 = 6 ∧ IsPortAddress 0x3FFE ∧ (0x3FFE : Word).toNat % 8 = 6) ∧
    (IsPortAddress 0x2007 ∧ (0x2007 : Word).toNat % 8 = 7 ∧ IsPortAddress 0x3FFF ∧ (0x3FFF : Word).toNat % 8 = 7) ∧
    (IsPortAddress 0x2000 ∧ (0x2000 : Word).toNat % 8 = 0 ∧ IsPortAddress 0x3FF9 ∧ (0x3FF9 : Word).toNat % 8 = 1) ∧
    State.reset.gfx.latch = false ∧ (memWrite State.reset 0x2006 0x21).gfx.latch = true := by
  simp only [IsPortAddress]; decide

theorem witness_FrameLength : Timer.Inv ⟨-1, 0, false⟩ ∧ Timer.Inv ⟨260, 340, true⟩ :=
  ⟨⟨by decide, by decide, by decide⟩, ⟨by decide, by decide, by decide⟩⟩

/-- The first tick that sets VB, at the lower end of the window. -/
theorem witness_VerticalBlankWindow :
    (State.reset.setTimer ⟨241, 1, false⟩).timer.scanline = 241 ∧
    (State.reset.setTimer ⟨241, 1, false⟩).timer.cycle = 1 ∧
    (timerTicks 1 (State.reset.setTimer ⟨241, 1, false⟩)).gfx.status.getLsbD 7 = true := by decide

/-- GraphicsReadAfterWrite: an alias in each range, two addresses that are not one byte, and a graphics ROM. -/
theorem witness_GraphicsReadAfterWrite :
    State.reset.Inv ∧ SameGraphicsByte State.reset.params 0x1FFF 0x5FFF ∧
    SameGraphicsByte State.reset.params 0x2000 0x3800 ∧ SameGraphicsByte State.reset.params 0x3F10 0xFFE0 ∧
    ¬ SameGraphicsByte State.reset.params 0x2000 0x2400 ∧ ¬ InGraphicsRom State.reset 0x1FFF ∧
    (testState [0xEA, 0xFF] 1 2 3 0xFD 0x21 [(0x10, 0xFF)]).Inv ∧
    InGraphicsRom (testState [0xEA, 0xFF] 1 2 3 0xFD 0x21 [(0x10, 0xFF)]) 0x1FFF := by
  refine ⟨⟨by decide, by decide, fun _ hc => (by cases hc), ⟨by decide, by decide, by decide, by decide, by decide,
    by decide, by decide, by decide⟩, ⟨by decide, by decide, by decide⟩⟩, by unfold SameGraphicsByte; decide,
    by unfold SameGraphicsByte; decide, by unfold SameGraphicsByte; decide, by unfold SameGraphicsByte; decide,
    fun h => ?_, witness_inv, ⟨by decide, _, rfl, by decide⟩⟩
  obtain ⟨-, c, hc, -⟩ := h
  cases hc

end Sys2Proof.Machine
end

/-! PROOFS. The CPU bus (spec 20_memory.md sections 2, 3 and 6): RAM and its mirrors, and the reads of program ROM. -/

namespace Sys2Proof.Machine

/-! ## RAM: the mask of R64 -/

theorem ramIndex_toNat (a : Word) : (a &&& 0x07FF).toNat = a.toNat % 2048 :=
  (BitVec.toNat_and a 0x07FF).trans (Nat.and_two_pow_sub_one_eq_mod a.toNat 11)

/-- Two addresses of the RAM range that agree under the mask are the same RAM byte of the frames (R64). -/
theorem sameRamByte_iff_mask_eq (a b : Word) (ha : a.toNat ≤ 0x1FFF) :
    SameRamByte b a ↔ b.toNat ≤ 0x1FFF ∧ b &&& 0x07FF = a &&& 0x07FF := by
  simp only [SameRamByte, ha, true_and, ← BitVec.toNat_inj, ramIndex_toNat]

theorem memRead_ram (s : State) (a : Word) (h : a.toNat ≤ 0x1FFF) :
    memRead s a = (Memory.read s.ram (a.toNat % 2048), s) := by
  have hnp : ¬ IsPortAddress a := fun hp => absurd hp.1 (by omega)
  rw [memRead, peek_ram s a h, afterRead_of_not_port s a hnp]

/-- Settles O21: the accesses are those of the RAM routes under the mask, and what a later peek sees is the frame of a
stored byte, whose mirrors are the addresses the mask identifies. -/
theorem ramIsMirrored : Obligations.RamIsMirrored := by
  intro s a ha
  rw [ramIndex_toNat]
  refine ⟨memRead_ram s a ha, fun v => ⟨memWrite_ram s a v ha, fun hwf b => ?_⟩⟩
  obtain ⟨hsame, hother, -⟩ := (memWrite_byteStored s a v hwf).1 ha
  simp only [sameRamByte_iff_mask_eq a _ ha] at hsame hother
  split
  · exact hsame b ‹_›
  · exact hother b ‹_›

/-! ## Program ROM: NROM's map of R87 -/

/-- NROM maps every address at or above 0x8000, by its mask (R87). -/
theorem nromCpuMap_high (c : Cartridge) (a : Word) (h : 0x8000 ≤ a.toNat) :
    nromCpuMap c a = some (a &&& (if 1 < c.prgBanks.toNat then 0x7FFF else 0x3FFF)).toNat :=
  if_pos h

/-- NROM's mask keeps the address modulo one bank, or modulo two where there is more than one. -/
theorem prgOffset_toNat (a : Word) (banks : Nat) :
    (a &&& (if 1 < banks then 0x7FFF else 0x3FFF)).toNat = a.toNat % (if 1 < banks then 32768 else 16384) := by
  split
  · exact (BitVec.toNat_and a 0x7FFF).trans (Nat.and_two_pow_sub_one_eq_mod a.toNat 15)
  · exact (BitVec.toNat_and a 0x3FFF).trans (Nat.and_two_pow_sub_one_eq_mod a.toNat 14)

/-- A mapped address is at or above 0x8000, and its offset is the address modulo the mapped size. -/
theorem nromCpuMap_eq_some_iff (c : Cartridge) (a : Word) (k : Nat) :
    nromCpuMap c a = some k ↔
      0x8000 ≤ a.toNat ∧ k = a.toNat % (if 1 < c.prgBanks.toNat then 32768 else 16384) := by
  by_cases h : 0x8000 ≤ a.toNat
  · rw [nromCpuMap_high c a h, prgOffset_toNat, Option.some_inj, eq_comm]
    exact (and_iff_right h).symm
  · simp [nromCpuMap_low c a (by omega), h]

/-- An offset lies in the 32 KiB NROM can map (R87). -/
theorem nromCpuMap_lt (c : Cartridge) (a : Word) (k : Nat) (h : nromCpuMap c a = some k) : k < 32768 := by
  obtain ⟨-, rfl⟩ := (nromCpuMap_eq_some_iff c a k).1 h
  split <;> omega

/-- An offset lies inside the program array of any cartridge that has a bank (R83, R91). -/
theorem nromCpuMap_lt_size (c : Cartridge) (a : Word) (k : Nat) (hb : c.prgBanks ≠ 0)
    (h : nromCpuMap c a = some k) : k < 16384 * c.prgBanks.toNat := by
  obtain ⟨-, rfl⟩ := (nromCpuMap_eq_some_iff c a k).1 h
  have hpos : 0 < c.prgBanks.toNat := Nat.pos_of_ne_zero fun h0 => hb (BitVec.eq_of_toNat_eq h0)
  split <;> omega

/-- With a cartridge, a read of a mapped address gives the byte of the program array and has no side effect (R63, R73,
R87). -/
theorem memRead_of_nromCpuMap (s : State) (c : Cartridge) (a : Word) (k : Nat) (hc : s.cart = some c)
    (h : nromCpuMap c a = some k) : memRead s a = (Memory.read c.prg k, s) := by
  have hr : route s a = .prg k := by simp only [route, hc, Option.bind_some, h]
  simp only [memRead, peek, afterRead, hr, hc]

/-- Settles O23: reads go through the map's offset, and the mirrors and bounds are the offset's remainder by the mapped
size. -/
theorem programRomReads : Obligations.ProgramRomReads := by
  intro s c hc
  refine ⟨fun a ha => memRead_of_nromCpuMap s c a _ hc (nromCpuMap_high c a ha), nromCpuMap_low c, fun hone => ?_,
    fun htwo => ?_, fun a k hk => ⟨nromCpuMap_lt c a k hk, fun hinv => nromCpuMap_lt_size c a k hinv.banks hk⟩⟩
  · simp only [nromCpuMap_eq_some_iff, hone]
    decide
  · simp only [nromCpuMap_eq_some_iff, htwo]
    decide

end Sys2Proof.Machine

/-! PROOFS. The decoder (spec 30_encoding.md sections 1 to 4): every opcode byte decodes, to an instruction of that
opcode. -/

namespace Sys2Proof

/-- No mode consumes more than two operand bytes (R121). -/
theorem Mode.operandBytes_le_two (m : Mode) : m.operandBytes ≤ 2 := by cases m <;> decide

/-! ## The opcode of an assembled instruction -/

/-- The operand bytes play no part in the opcode: the mnemonic and the mode alone choose the form that `opcodeOf`
reads. -/
theorem opcodeOf_instrOf_operands (n : Mnemonic) (m : Mode) (b1 b2 : Byte) :
    (instrOf n m b1 b2).map opcodeOf = (instrOf n m 0 0).map opcodeOf := by
  cases n <;> cases m <;> rfl

theorem opcodeOf_assemble_operands (opcode b1 b2 : Byte) :
    opcodeOf (assemble opcode b1 b2) = opcodeOf (assemble opcode 0 0) := by
  rw [assemble, assemble]
  cases documentedRow opcode with
  | none => rfl
  | some d => simp only [← Option.getD_map opcodeOf, opcodeOf_instrOf_operands d.mnemonic d.mode b1 b2]

/-- The descriptor table and the encoding lists agree on each of the 256 opcodes. -/
theorem opcodeOf_assemble_zero : ∀ opcode : Byte, opcodeOf (assemble opcode 0 0) = opcode := by decide

/-- An assembled instruction keeps its opcode, with any operand bytes (R124, R126). -/
@[simp] theorem opcodeOf_assemble (opcode b1 b2 : Byte) : opcodeOf (assemble opcode b1 b2) = opcode :=
  (opcodeOf_assemble_operands opcode b1 b2).trans (opcodeOf_assemble_zero opcode)

/-! ## Decoding with two bytes after the opcode -/

/-- Two bytes are enough operand bytes for any opcode: the decoder assembles the opcode with those it consumes and leaves
the others. -/
theorem exists_decode_eq_assemble (opcode b1 b2 : Byte) (rest : List Byte) :
    ∃ c1 c2, decode (opcode :: b1 :: b2 :: rest) =
      .ok (assemble opcode c1 c2, (b1 :: b2 :: rest).drop (operandCount opcode)) := by
  have hle : operandCount opcode ≤ 2 := (opcodeMode opcode).operandBytes_le_two
  simp only [decode]
  generalize operandCount opcode = k at hle
  interval_cases k
  · exact ⟨0, 0, rfl⟩
  · exact ⟨b1, 0, rfl⟩
  · exact ⟨b1, b2, rfl⟩

/-- Settles O3: with two bytes after the opcode the decoder assembles an instruction, and an assembled instruction keeps
its opcode. -/
theorem everyOpcodeDecodes : Obligations.EveryOpcodeDecodes := by
  intro opcode b1 b2 rest
  obtain ⟨c1, c2, hdecode⟩ := exists_decode_eq_assemble opcode b1 b2 rest
  exact ⟨_, _, hdecode, opcodeOf_assemble opcode c1 c2⟩

end Sys2Proof

/-! PROOFS. Arithmetic (spec 41_arithmetic_logical.md): the overflow formula and the signed value of ADC's result. -/

namespace Sys2Proof.Machine

/-! ## The overflow formula: sign bits (R181) -/

/-- Bit 7 of the formula is a condition on the three sign bits. -/
theorem overflow_iff (a m r : Byte) : overflow a m r = true ↔ a.msb = m.msb ∧ r.msb ≠ a.msb := by
  have hbit : overflow a m r = (!(a.msb ^^ m.msb) && (a.msb ^^ r.msb)) := by
    rw [overflow, ← BitVec.msb_eq_getLsbD_last]
    simp
  rw [hbit]
  cases a.msb <;> cases m.msb <;> cases r.msb <;> decide

/-! ## The result of an addition as a signed number (R182) -/

/-- The result is the signed sum, wrapped into -128..127. -/
theorem addResult_toInt (a m : Byte) (c : Bool) :
    (addResult a m c).toInt = (a.toInt + m.toInt + (c.toNat : Int)).bmod 256 := by
  have hcarry : (BitVec.ofNat 8 c.toNat).toInt = c.toNat := by cases c <;> rfl
  simp [addResult, addSum, BitVec.ofNat_add, BitVec.toInt_add, hcarry]

theorem byte_toInt_range (b : Byte) : -128 ≤ b.toInt ∧ b.toInt ≤ 127 :=
  ⟨BitVec.le_toInt b, BitVec.toInt_le⟩

/-- `s` is the sum of `x` and `y` with a carry of 0 or 1. When it leaves -128..127, both addends have its sign and the wrap
turns that sign over; when it does not, nothing wraps, and addends of one sign give a sum of that sign. -/
theorem sign_flips_iff_sum_out_of_range {x y s : Int} (hx : -128 ≤ x ∧ x ≤ 127) (hy : -128 ≤ y ∧ y ≤ 127)
    (hs : x + y ≤ s ∧ s ≤ x + y + 1) :
    ((x < 0 ↔ y < 0) ∧ ¬ (s.bmod 256 < 0 ↔ x < 0)) ↔ ¬ (-128 ≤ s ∧ s ≤ 127) := by
  obtain hlow | hin | hhigh : s < -128 ∨ (-128 ≤ s ∧ s ≤ 127) ∨ 127 < s := by omega
  · have hwrap : s.bmod 256 = s + 256 := (Int.bmod_eq_iff (by decide)).2 (by omega)
    omega
  · have hkeep : s.bmod 256 = s := Int.bmod_eq_of_le hin.1 (Int.lt_add_one_of_le hin.2)
    omega
  · have hwrap : s.bmod 256 = s - 256 := (Int.bmod_eq_iff (by decide)).2 (by omega)
    omega

/-- V of an addition is signed overflow of that addition (R181, R182). -/
theorem overflow_addResult_iff (a m : Byte) (c : Bool) :
    overflow a m (addResult a m c) = true ↔
      ¬ (-128 ≤ a.toInt + m.toInt + (c.toNat : Int) ∧ a.toInt + m.toInt + (c.toNat : Int) ≤ 127) := by
  have hcarry := c.toNat_le
  rw [overflow_iff, ← sign_flips_iff_sum_out_of_range (byte_toInt_range a) (byte_toInt_range m) (by omega),
    ← addResult_toInt]
  simp only [BitVec.msb_eq_toInt, ne_eq, decide_eq_decide]

/-- Settles O25: the formula read on the sign bits, and on ADC's result through its signed value. -/
theorem overflowFormula : Obligations.OverflowFormula :=
  ⟨fun a m r => ⟨rfl, overflow_iff a m r⟩, overflow_addResult_iff⟩

end Sys2Proof.Machine

/-! PROOFS. The increments and decrements of X and Y (spec 42_shift_incdec_compare.md section 2): the state after an
implied instruction that writes an index register, and its flags. -/

namespace Sys2Proof.Machine

/-- An implied instruction that reads no operand runs its operation on the started state. -/
theorem plainInstr_imp (i : Instr) (f : State → State) (s : State) (h : i.operand = .imp) :
    plainInstr i f s = f (writeTemp (start i s)) := by
  rw [plainInstr_eq, resolved_imp i s h]

/-! ## Writing X and Y with Z and N -/

/-- A status byte after `SetZN` differs in Z and N only (R180). -/
theorem flagsKept_of_znFlags {s t : State} {v : Byte} (h : t.cpu.p = znFlags s.cpu.p v) : FlagsKept [.z, .n] s t := by
  intro f hf
  obtain ⟨hz, hn⟩ : f ≠ .z ∧ f ≠ .n := by simpa using hf
  rw [State.flag_eq, h, getFlag_znFlags, if_neg hn, if_neg hz, State.flag_eq]

section
variable (v : Byte) (s : State)

@[simp] theorem putX_x : (putX v s).cpu.x = v := rfl
@[simp] theorem putY_y : (putY v s).cpu.y = v := rfl

@[simp] theorem putX_flag (f : Flag) :
    (putX v s).flag f = if f = .n then v.getLsbD 7 else if f = .z then v == 0 else s.flag f :=
  getFlag_znFlags s.cpu.p v f

@[simp] theorem putY_flag (f : Flag) :
    (putY v s).flag f = if f = .n then v.getLsbD 7 else if f = .z then v == 0 else s.flag f :=
  getFlag_znFlags s.cpu.p v f

/-- The frame of INX and DEX (R226, R228): after the start of an implied instruction, only X and its flags are written. -/
theorem putX_frame (i : Instr) :
    let t := putX v (writeTemp (start i s))
    RegsKept [.x] s t ∧ FlagsKept [.z, .n] s t ∧ MemoryKept s t ∧ OthersKept s t :=
  ⟨⟨fun _ => rfl, fun hx => absurd (List.mem_singleton_self _) hx, fun _ => rfl, fun _ => rfl, fun _ => rfl⟩,
    flagsKept_of_znFlags rfl, ⟨fun _ => rfl, fun _ => rfl, rfl, rfl, rfl⟩, OthersKept.refl s⟩

/-- The frame of INY and DEY (R227, R229). -/
theorem putY_frame (i : Instr) :
    let t := putY v (writeTemp (start i s))
    RegsKept [.y] s t ∧ FlagsKept [.z, .n] s t ∧ MemoryKept s t ∧ OthersKept s t :=
  ⟨⟨fun _ => rfl, fun _ => rfl, fun hy => absurd (List.mem_singleton_self _) hy, fun _ => rfl, fun _ => rfl⟩,
    flagsKept_of_znFlags rfl, ⟨fun _ => rfl, fun _ => rfl, rfl, rfl, rfl⟩, OthersKept.refl s⟩

end

/-! ## The four instructions -/

theorem exec_inx (s : State) : exec .inx s = .next (putX (s.cpu.x + 1) (writeTemp (start .inx s))) :=
  congrArg Host.Outcome.next (plainInstr_imp .inx _ s rfl)

theorem exec_iny (s : State) : exec .iny s = .next (putY (s.cpu.y + 1) (writeTemp (start .iny s))) :=
  congrArg Host.Outcome.next (plainInstr_imp .iny _ s rfl)

theorem exec_dex (s : State) : exec .dex s = .next (putX (s.cpu.x - 1) (writeTemp (start .dex s))) :=
  congrArg Host.Outcome.next (plainInstr_imp .dex _ s rfl)

theorem exec_dey (s : State) : exec .dey s = .next (putY (s.cpu.y - 1) (writeTemp (start .dey s))) :=
  congrArg Host.Outcome.next (plainInstr_imp .dey _ s rfl)

/-- Subtracting 1 is adding 255 modulo 256. -/
theorem byte_sub_one_toNat (b : Byte) : (b - 1).toNat = (b.toNat + 255) % 256 :=
  (BitVec.toNat_sub b 1).trans (congrArg (· % 256) (Nat.add_comm 255 b.toNat))

/-- Settles O32: each instruction is one write of its register with Z and N; the corner cases read the flags of that
write, and the frame is the write's frame. -/
theorem indexIncrements : Obligations.IndexIncrements := by
  refine ⟨rfl, rfl, rfl, rfl, fun s => ⟨?inx, ?iny, ?dex, ?dey⟩⟩
  case inx =>
    exact ⟨_, exec_inx s, rfl, BitVec.toNat_add s.cpu.x 1, rfl, fun h => by simp [h], fun h => by simp [h],
      putX_frame _ s .inx⟩
  case iny =>
    exact ⟨_, exec_iny s, rfl, BitVec.toNat_add s.cpu.y 1, rfl, fun h => by simp [h], fun h => by simp [h],
      putY_frame _ s .iny⟩
  case dex =>
    exact ⟨_, exec_dex s, rfl, byte_sub_one_toNat s.cpu.x, rfl, fun h => by simp [h], fun h => by simp [h],
      putX_frame _ s .dex⟩
  case dey =>
    exact ⟨_, exec_dey s, rfl, byte_sub_one_toNat s.cpu.y, rfl, fun h => by simp [h], fun h => by simp [h],
      putY_frame _ s .dey⟩

end Sys2Proof.Machine

/-! PROOFS. The graphics ports (spec 60_exceptions.md section 6): which port an address names, the register file after an
access to a port, and the address register after a PPU-DATA access. -/

namespace Sys2Proof.Machine

/-! ## The port of an address: its three low bits (R65, R420) -/

section
variable (a : Word)

theorem portOf_control (h : a.toNat % 8 = 0) : portOf a = .control := by simp only [portOf, h]

theorem portOf_mask (h : a.toNat % 8 = 1) : portOf a = .mask := by simp only [portOf, h]

theorem portOf_ppuData (h : a.toNat % 8 = 7) : portOf a = .ppuData := by simp only [portOf, h]

end

/-- A read of a port has the port's effect on the register file and no other (R65, R73). -/
theorem afterRead_port (s : State) (a : Word) (h : IsPortAddress a) :
    afterRead s a = s.setGfx (portReadEffect s (portOf a)) := by
  simp only [afterRead, route_port s a h]

/-! ## The address register after a PPU-DATA access (R424, R425) -/

/-- A graphics write lands in a memory, never in the address register (R96). -/
@[simp] theorem ppuWrite_gfx_v (s : State) (a : Word) (d : Byte) : (ppuWrite s a d).gfx.v = s.gfx.v := by
  simp only [ppuWrite]
  cases ppuWriteTarget s a <;> rfl

theorem portReadEffect_ppuData_v (s : State) : (portReadEffect s .ppuData).v = s.gfx.v + 1 := rfl

theorem portWrite_ppuData_v (s : State) (d : Byte) : (portWrite s .ppuData d).gfx.v = s.gfx.v + 1 :=
  congrArg (· + 1) (ppuWrite_gfx_v s s.gfx.v d)

/-- Both kinds of PPU-DATA access add 1 to the address register, at every mirror of the port and in every state: no
increment mode is consulted. -/
theorem ppuData_access_advances_v (s : State) (a : Word) (d : Byte) (ha : IsPortAddress a) (h7 : a.toNat % 8 = 7) :
    (afterRead s a).gfx.v = s.gfx.v + 1 ∧ (memWrite s a d).gfx.v = s.gfx.v + 1 := by
  rw [afterRead_port s a ha, memWrite_port s a d ha, portOf_ppuData a h7]
  exact ⟨portReadEffect_ppuData_v s, portWrite_ppuData_v s d⟩

/-- Settles O56: a CONTROL or MASK write is the port's write, and the advance of v and the tick's frame on the CPU hold
in every state, so in one with any CONTROL. -/
theorem controlAndMaskPorts : Obligations.ControlAndMaskPorts := by
  refine ⟨fun s a d ha => ⟨fun h0 => ?control, fun h1 => ?mask⟩, fun s a ctrl d ha h7 => ?increment⟩
  case control => rw [memWrite_port s a d ha, portOf_control a h0, portWrite]
  case mask => rw [memWrite_port s a d ha, portOf_mask a h1, portWrite]
  case increment =>
    obtain ⟨hread, hwrite⟩ := ppuData_access_advances_v (s.setGfx { s.gfx with ctrl := ctrl }) a d ha h7
    exact ⟨hread, hwrite, timerTick_cpu _⟩

end Sys2Proof.Machine

/-! PROOFS. The round trip of the decoder and the encoder (spec 30_encoding.md sections 1 to 4): the operand bytes of a
form, the descriptor of an instruction's opcode, and the bytes a decoded instruction was read from. -/

namespace Sys2Proof

/-! ## From operand bytes to a form and back -/

/-- The operand a mode makes of the bytes after the opcode, low byte first (R121, R122). -/
def operandOf (m : Mode) (b1 b2 : Byte) : Operand :=
  match m with
  | .imp => .imp
  | .imm => .imm b1
  | .zp0 => .zp0 b1
  | .zpx => .zpx b1
  | .zpy => .zpy b1
  | .rel => .rel b1
  | .abs => .abs (w16 b1 b2)
  | .abx => .abx (w16 b1 b2)
  | .aby => .aby (w16 b1 b2)
  | .ind => .ind (w16 b1 b2)
  | .izx => .izx b1
  | .izy => .izy b1

@[simp] theorem operandOf_mode (m : Mode) (b1 b2 : Byte) : (operandOf m b1 b2).mode = m := by cases m <;> rfl

/-- The bytes of an operand are those its mode consumes (R121). -/
theorem operandOf_bytes (m : Mode) (b1 b2 : Byte) : (operandOf m b1 b2).bytes = [b1, b2].take m.operandBytes := by
  cases m <;> simp [operandOf, Operand.bytes, Mode.operandBytes, Machine.loByte_w16, Machine.hiByte_w16]

/-- Operand byte `k` of an instruction in memory order, 0 where its mode consumes none. -/
def Operand.byte (o : Operand) (k : Nat) : Byte := o.bytes.getD k 0

/-- An operand is what its mode makes of its own bytes. -/
theorem operandOf_byte (o : Operand) : operandOf o.mode (o.byte 0) (o.byte 1) = o := by
  cases o <;> simp [operandOf, Operand.mode, Operand.byte, Operand.bytes]

/-- An instruction made of a mnemonic, a mode and operand bytes has that mnemonic and that operand (R122, R123). -/
theorem mnemonic_operand_of_instrOf {n : Mnemonic} {m : Mode} {b1 b2 : Byte} {i : Instr}
    (h : instrOf n m b1 b2 = some i) : i.mnemonic = n ∧ i.operand = operandOf m b1 b2 := by
  cases n <;> cases m <;> cases h <;> exact ⟨rfl, rfl⟩

/-- A documented instruction is the one its mnemonic, its mode and its operand bytes make (R122, R123). -/
theorem instrOf_of_operand (i : Instr) (b1 b2 : Byte) (hn : i.mnemonic ≠ .xxx)
    (ho : i.operand = operandOf i.operand.mode b1 b2) : instrOf i.mnemonic i.operand.mode b1 b2 = some i := by
  cases i
  case xxx opcode => exact absurd rfl hn
  case adc f | sbc f | and f | ora f | eor f | bit f | asl f | lsr f | rol f | ror f | inc f | dec f | cmp f | cpx f
    | cpy f | jmp f | lda f | ldx f | ldy f | sta f | stx f | sty f => cases f <;> cases ho <;> rfl
  all_goals cases ho; rfl

/-! ## The descriptor of an opcode -/

/-- The descriptor table and the encoding lists agree (R124, R490): the entry of a documented instruction's opcode is its
mnemonic, its mode and the number of the timing table. -/
theorem documentedRow_opcodeOf (i : Instr) (hn : i.mnemonic ≠ .xxx) :
    documentedRow (opcodeOf i) =
      some ⟨i.mnemonic, i.operand.mode, Machine.cycleTable i.mnemonic i.operand.mode⟩ := by
  cases i
  case xxx opcode => exact absurd rfl hn
  case adc f | sbc f | and f | ora f | eor f | bit f | asl f | lsr f | rol f | ror f | inc f | dec f | cmp f | cpx f
    | cpy f | jmp f | lda f | ldx f | ldy f | sta f | stx f | sty f =>
    cases f <;> simp only [opcodeOf, AluForm.opcode, ShiftForm.opcode, IncForm.opcode, IndexCompareForm.opcode] <;> rfl
  all_goals simp only [opcodeOf]; rfl

/-- The undocumented opcodes are those without an entry (R126). -/
theorem documentedRow_eq_none_iff : ∀ opcode : Byte, documentedRow opcode = none ↔ isUndocumented opcode = true := by
  decide

/-- Every entry of the table is a mnemonic in a mode it has (R124). -/
theorem isSome_instrOf_documentedRow :
    ∀ opcode : Byte, ∀ d ∈ documentedRow opcode, (instrOf d.mnemonic d.mode 0 0).isSome ∧ d.mnemonic ≠ .xxx := by
  decide

/-- A placeholder carries an undocumented opcode, and every other term is well formed (R126). -/
theorem wellFormed_cases (i : Instr) (h : i.wellFormed = true) :
    (∃ opcode, i = .xxx opcode ∧ isUndocumented opcode = true) ∨ i.mnemonic ≠ .xxx := by
  cases i
  case xxx opcode => exact .inl ⟨opcode, rfl, h⟩
  all_goals exact .inr (by simp [Instr.mnemonic])

theorem wellFormed_of_mnemonic (i : Instr) (h : i.mnemonic ≠ .xxx) : i.wellFormed = true := by
  cases i
  case xxx opcode => exact absurd rfl h
  all_goals rfl

/-- The mode of a well-formed instruction's opcode is the mode of its operand (R121). -/
theorem opcodeMode_opcodeOf (i : Instr) (h : i.wellFormed = true) : opcodeMode (opcodeOf i) = i.operand.mode := by
  obtain ⟨opcode, rfl, hu⟩ | hn := wellFormed_cases i h
  · simp only [opcodeMode, opcodeOf, (documentedRow_eq_none_iff opcode).2 hu]; rfl
  · simp only [opcodeMode, documentedRow_opcodeOf i hn]

/-! ## Assembling -/

/-- Every opcode assembles to the placeholder or, with a documented entry, to the instruction of that entry. -/
theorem assemble_cases (opcode b1 b2 : Byte) :
    (isUndocumented opcode = true ∧ assemble opcode b1 b2 = .xxx opcode) ∨
    ∃ d, documentedRow opcode = some d ∧ d.mnemonic ≠ .xxx ∧
      instrOf d.mnemonic d.mode b1 b2 = some (assemble opcode b1 b2) := by
  cases hrow : documentedRow opcode with
  | none => exact .inl ⟨(documentedRow_eq_none_iff opcode).1 hrow, by simp only [assemble, hrow]⟩
  | some d =>
    obtain ⟨hsome, hn⟩ := isSome_instrOf_documentedRow opcode d hrow
    have hsome' : (instrOf d.mnemonic d.mode b1 b2).isSome := by
      rw [← Option.isSome_map (f := opcodeOf), opcodeOf_instrOf_operands, Option.isSome_map]
      exact hsome
    obtain ⟨i, hi⟩ := Option.isSome_iff_exists.1 hsome'
    exact .inr ⟨d, rfl, hn, by simp only [assemble, hrow, hi, Option.getD_some]⟩

/-- An assembled instruction is well formed (R126, R127). -/
theorem wellFormed_assemble (opcode b1 b2 : Byte) : (assemble opcode b1 b2).wellFormed = true := by
  obtain ⟨hu, heq⟩ | ⟨d, -, hn, heq⟩ := assemble_cases opcode b1 b2
  · rw [heq]; exact hu
  · exact wellFormed_of_mnemonic _ (by rwa [(mnemonic_operand_of_instrOf heq).1])

/-- An assembled instruction has the operand its opcode's mode makes of the bytes (R121, R122). -/
theorem operand_assemble (opcode b1 b2 : Byte) :
    (assemble opcode b1 b2).operand = operandOf (opcodeMode opcode) b1 b2 := by
  obtain ⟨hu, heq⟩ | ⟨d, hrow, -, heq⟩ := assemble_cases opcode b1 b2
  · simp only [heq, opcodeMode, (documentedRow_eq_none_iff opcode).2 hu]; rfl
  · simp only [(mnemonic_operand_of_instrOf heq).2, opcodeMode, hrow]

/-- The opcode of a well-formed instruction and its operand bytes assemble to it (R120, R124). -/
theorem assemble_opcodeOf (i : Instr) (b1 b2 : Byte) (h : i.wellFormed = true)
    (ho : i.operand = operandOf i.operand.mode b1 b2) : assemble (opcodeOf i) b1 b2 = i := by
  obtain ⟨opcode, rfl, hu⟩ | hn := wellFormed_cases i h
  · simp only [assemble, opcodeOf, (documentedRow_eq_none_iff opcode).2 hu]
  · simp only [assemble, documentedRow_opcodeOf i hn, instrOf_of_operand i b1 b2 hn ho, Option.getD_some]

/-! ## The decoder over a list -/

/-- An opcode with as many bytes after it as it consumes decodes to what it assembles with them (R122, R127). -/
theorem decode_append (opcode : Byte) (bytes rest : List Byte) (h : bytes.length = operandCount opcode) :
    decode (opcode :: bytes ++ rest) = .ok (assemble opcode (bytes.getD 0 0) (bytes.getD 1 0), rest) := by
  have hle : operandCount opcode ≤ 2 := (opcodeMode opcode).operandBytes_le_two
  match bytes, h with
  | [], h => simp [decode, ← h]
  | [b1], h => simp [decode, ← h]
  | [b1, b2], h => simp [decode, ← h]
  | _ :: _ :: _ :: _, h => simp only [List.length_cons] at h; omega

/-- What decodes is an opcode and as many bytes after it as it consumes, assembled. -/
theorem of_decode_eq_ok {bytes rest : List Byte} {i : Instr} (h : decode bytes = .ok (i, rest)) :
    ∃ opcode b1 b2, bytes = opcode :: ([b1, b2].take (operandCount opcode) ++ rest) ∧ i = assemble opcode b1 b2 := by
  cases bytes with
  | nil => cases h
  | cons opcode tail =>
    simp only [decode] at h
    split at h
    · cases h; exact ⟨opcode, 0, 0, by simp [*], rfl⟩
    · cases h; exact ⟨opcode, _, 0, by simp [*], rfl⟩
    · cases h; exact ⟨opcode, _, _, by simp [*], rfl⟩
    · cases h

/-- Settles O1: the opcode consumes exactly the operand bytes the encoder writes, and with them it assembles the
instruction. -/
theorem decodeOfEncode : Obligations.DecodeOfEncode := by
  intro i rest h
  have hlen : i.operand.bytes.length = operandCount (opcodeOf i) := by
    rw [operandCount, opcodeMode_opcodeOf i h, Operand.length_bytes]
  rw [encode, decode_append _ _ _ hlen]
  exact congrArg (fun j => Except.ok (j, rest)) (assemble_opcodeOf i _ _ h (operandOf_byte i.operand).symm)

/-- Settles O2: what decodes was assembled, so it is well formed, keeps its opcode and has the operand of the bytes it was
assembled from. -/
theorem encodeOfDecode : Obligations.EncodeOfDecode := by
  intro bytes rest i h
  obtain ⟨opcode, b1, b2, rfl, rfl⟩ := of_decode_eq_ok h
  refine ⟨wellFormed_assemble opcode b1 b2, ?_⟩
  rw [encode, opcodeOf_assemble, operand_assemble, operandOf_bytes, operandCount, List.cons_append]

/-! ## The undocumented opcodes and the timing table -/

theorem two_le_undocCycles (p : Params) (opcode : Byte) : 2 ≤ undocCycles p opcode := Nat.le_add_left 2 _

theorem descriptor_of_undocumented (p : Params) (opcode : Byte) (h : isUndocumented opcode = true) :
    descriptor p opcode = ⟨.xxx, .imp, undocCycles p opcode⟩ := by
  rw [descriptor, (documentedRow_eq_none_iff opcode).2 h, Option.getD_none]

/-- Settles O4: an undocumented opcode has no entry in the table, so no operand bytes, and its descriptor is the
placeholder's. -/
theorem undocumentedOpcodes : Obligations.UndocumentedOpcodes := by
  refine ⟨by decide, fun opcode h => ⟨fun rest => ?_, fun p => ⟨?_, two_le_undocCycles p opcode⟩, rfl⟩⟩
  · have hcount : operandCount opcode = 0 := by
      simp only [operandCount, opcodeMode, (documentedRow_eq_none_iff opcode).2 h]; rfl
    have := decode_append opcode [] rest hcount.symm
    rwa [assemble, (documentedRow_eq_none_iff opcode).2 h] at this
  · simp only [describe, descriptor_of_undocumented p opcode h]

theorem tableCycles_of_mnemonic (p : Params) (i : Instr) (h : i.mnemonic ≠ .xxx) :
    Machine.tableCycles p i = Machine.cycleTable i.mnemonic i.operand.mode := by
  cases i
  case xxx opcode => exact absurd rfl h
  all_goals rfl

/-- The descriptor of a well-formed instruction's opcode (R124, R126, R490). -/
theorem descriptor_opcodeOf (p : Params) (i : Instr) (h : i.wellFormed = true) :
    descriptor p (opcodeOf i) = ⟨i.mnemonic, i.operand.mode, Machine.tableCycles p i⟩ := by
  obtain ⟨opcode, rfl, hu⟩ | hn := wellFormed_cases i h
  · exact descriptor_of_undocumented p opcode hu
  · rw [descriptor, documentedRow_opcodeOf i hn, Option.getD_some, tableCycles_of_mnemonic p i hn]

/-- The base count of a well-formed instruction is the number of the timing table (R490). -/
theorem baseCycles_eq_tableCycles (p : Params) (i : Instr) (h : i.wellFormed = true) :
    baseCycles p i = Machine.tableCycles p i := by
  rw [baseCycles, descriptor_opcodeOf p i h]

theorem two_le_cycleTable (n : Mnemonic) (m : Mode) : 2 ≤ Machine.cycleTable n m := by
  cases n <;> cases m <;> decide

theorem two_le_tableCycles (p : Params) (i : Instr) (h : i.wellFormed = true) : 2 ≤ Machine.tableCycles p i := by
  obtain ⟨opcode, rfl, -⟩ | hn := wellFormed_cases i h
  · exact two_le_undocCycles p opcode
  · rw [tableCycles_of_mnemonic p i hn]
    exact two_le_cycleTable _ _

/-- Settles O5: all three clauses read the descriptor of the opcode. -/
theorem descriptorMatchesEncoding : Obligations.DescriptorMatchesEncoding := by
  intro p i h
  refine ⟨?_, baseCycles_eq_tableCycles p i h, two_le_tableCycles p i h⟩
  simp only [describe, descriptor_opcodeOf p i h]

/-- Settles O6, by running the decoder on each word. -/
theorem specWordsDecode : Obligations.SpecWordsDecode := by
  unfold Obligations.SpecWordsDecode
  decide

end Sys2Proof

/-! PROOFS. The step (spec 40_execution_and_addressing.md section 1, 60_exceptions.md section 8): how an instruction in
progress finishes, and the fetch of the next one in closed form. -/

namespace Sys2Proof

/-! ## The bytes an opcode does not consume -/

theorem operandOf_congr {m : Mode} {b1 b2 c1 c2 : Byte} (h1 : 1 ≤ m.operandBytes → b1 = c1)
    (h2 : 2 ≤ m.operandBytes → b2 = c2) : operandOf m b1 b2 = operandOf m c1 c2 := by
  cases m <;> simp_all [operandOf, Mode.operandBytes]

/-- The assembled instruction depends on no byte its opcode does not consume (R121, R128). -/
theorem assemble_congr {opcode b1 b2 c1 c2 : Byte} (h1 : 1 ≤ operandCount opcode → b1 = c1)
    (h2 : 2 ≤ operandCount opcode → b2 = c2) : assemble opcode b1 b2 = assemble opcode c1 c2 := by
  have ho := operand_assemble opcode c1 c2
  rw [← operandOf_congr h1 h2] at ho
  have hm : (assemble opcode c1 c2).operand.mode = opcodeMode opcode := by rw [ho, operandOf_mode]
  have := assemble_opcodeOf (assemble opcode c1 c2) b1 b2 (wellFormed_assemble _ _ _) (by rw [hm, ho])
  rwa [opcodeOf_assemble] at this

/-- An assembled instruction is one opcode byte and the bytes its opcode consumes (R120, R121). -/
theorem length_encode_assemble (opcode b1 b2 : Byte) :
    (encode (assemble opcode b1 b2)).length = 1 + operandCount opcode := by
  rw [length_encode, operand_assemble, operandOf_mode, operandCount]

theorem operandCount_le_two (opcode : Byte) : operandCount opcode ≤ 2 := (opcodeMode opcode).operandBytes_le_two

end Sys2Proof

namespace Sys2Proof.Machine

/-! ## Finishing the instruction in progress -/

section
variable (n v : Nat) (s : State)

theorem timerTicks_setRemaining : timerTicks n (s.setRemaining v) = (timerTicks n s).setRemaining v := by
  simp only [State.setRemaining, timerTicks_cpu_update, timerTicks_cpu]

theorem timerTicks_setTotalCycles : timerTicks n (s.setTotalCycles v) = (timerTicks n s).setTotalCycles v := by
  simp only [State.setTotalCycles, timerTicks_cpu_update, timerTicks_cpu]

end

/-- The boundary at the end of the instruction in progress: its remaining ticks counted, three timer ticks for each. -/
def boundary (s : State) : State :=
  ((timerTicks (3 * s.cpu.remaining) s).setRemaining 0).setTotalCycles (s.cpu.totalCycles + s.cpu.remaining)

@[simp] theorem boundary_remaining (s : State) : (boundary s).cpu.remaining = 0 := rfl
@[simp] theorem boundary_totalCycles (s : State) :
    (boundary s).cpu.totalCycles = s.cpu.totalCycles + s.cpu.remaining := rfl
@[simp] theorem boundary_wasReset (s : State) : (boundary s).wasReset = s.wasReset := by simp [boundary]
@[simp] theorem boundary_params (s : State) : (boundary s).params = s.params := by simp [boundary]
@[simp] theorem boundary_timer (s : State) : (boundary s).timer = (timerTicks (3 * s.cpu.remaining) s).timer := rfl

/-- A machine at a boundary is at its own boundary. -/
theorem boundary_of_remaining_zero (s : State) (h : s.cpu.remaining = 0) : boundary s = s := by
  simp only [boundary, h, Nat.mul_zero, Nat.add_zero, timerTicks, State.setRemaining, State.setTotalCycles]
  rw [← h]

/-- A clock group in the middle of an instruction goes on to the same boundary. -/
theorem boundary_clockGroup (s : State) (h : s.cpu.remaining ≠ 0) :
    boundary (countCycle ((timerTicks 3 s).setRemaining (s.cpu.remaining - 1))) = boundary s := by
  have hticks : 3 + 3 * (s.cpu.remaining - 1) = 3 * s.cpu.remaining := by omega
  have hcycles : s.cpu.totalCycles + 1 + (s.cpu.remaining - 1) = s.cpu.totalCycles + s.cpu.remaining := by omega
  simp only [boundary, countCycle, State.setTotalCycles_remaining, State.setRemaining_remaining,
    State.setTotalCycles_totalCycles, State.setRemaining_totalCycles, timerTicks_cpu, timerTicks_setTotalCycles,
    timerTicks_setRemaining, ← timerTicks_add, hticks, hcycles]
  rfl

/-- The first loop of R450 reaches the boundary. -/
theorem finishInstruction_eq (n : Nat) : ∀ s : State, s.wasReset = true → s.cpu.remaining = n →
    finishInstruction n s = .next (boundary s) := by
  induction n with
  | zero => intro s _ h; rw [finishInstruction, boundary_of_remaining_zero s h]
  | succ k ih =>
    intro s hw h
    have hne : s.cpu.remaining ≠ 0 := by omega
    rw [finishInstruction, if_neg hne, clockGroup_executing s hw hne, andThen_next,
      ih _ (by simpa [countCycle] using hw) (by simp [countCycle, h]), boundary_clockGroup s hne]

/-- A step is the clock group from the boundary (R450). -/
theorem step_eq_clockGroup (s : State) (h : s.wasReset = true) : step s = clockGroup (boundary s) := by
  rw [step, stepInstruction, finishInstruction_eq _ s h rfl, andThen_next]

theorem step_of_remaining_zero (s : State) (hr : s.cpu.remaining = 0) : step s = clockGroup s := by
  rw [step, stepInstruction, hr, finishInstruction, andThen_next]

/-- Settles O9: both steps are the clock group from the same boundary. -/
theorem stepFinishesInstructionFirst : Obligations.StepFinishesInstructionFirst := by
  intro s h
  exact (step_eq_clockGroup s h).trans (step_of_remaining_zero (boundary s) rfl).symm

/-! ## The clock group that fetches -/

theorem andThen_andThen (r : Result) (f g : State → Result) :
    andThen (andThen r f) g = andThen r (fun t => andThen (f t) g) := by
  cases r <;> rfl

@[simp] theorem leadingTimerTicks_cpu (s : State) : (leadingTimerTicks s).cpu = s.cpu := timerTicks_cpu _ s
@[simp] theorem leadingTimerTicks_wasReset (s : State) : (leadingTimerTicks s).wasReset = s.wasReset :=
  timerTicks_wasReset _ s

/-- The instruction a fetch decodes to. -/
def fetchedInstr (s : State) : Instr := assemble (fetch s).opcode (fetch s).b1 (fetch s).b2

theorem wellFormed_fetchedInstr (s : State) : (fetchedInstr s).wellFormed = true := wellFormed_assemble _ _ _

/-- The end of a clock group after its instruction ran: the fetch tick and the cycle counted, the timer ticks that come
after the CPU tick (R143, R144, R446). -/
def endGroup (t : State) : State := trailingTimerTicks (countCycle (chargeFetchTick t))

/-- At a boundary a clock group fetches and executes one instruction (R140, R141, R446). -/
theorem clockGroup_idle (s : State) (h : s.wasReset = true) (hr : s.cpu.remaining = 0) :
    clockGroup s =
      andThen (exec (fetchedInstr (leadingTimerTicks s)) (fetch (leadingTimerTicks s)).state)
        (fun t => .next (endGroup t)) := by
  rw [clockGroup, cpuTick_idle _ (by simpa using h) (by simpa using hr), andThen_andThen]
  rfl

/-! ## The fetch in closed form -/

/-- A read reads and writes no CPU register, so it commutes with every change of them. -/
theorem afterRead_cpu_update (s : State) (c : Cpu) (a : Word) :
    afterRead { s with cpu := c } a = { afterRead s a with cpu := c } := by
  have hroute : route { s with cpu := c } a = route s a := rfl
  simp only [afterRead, hroute]
  cases route s a <;> rfl

/-- What a fetch leaves of the state `r` its reads leave: the opcode recorded, U set and PC advanced (R141). -/
def afterFetch (opcode : Byte) (pc : Word) (r : State) : State := ((r.setOpcode opcode).setFlag .u true).setPC pc

theorem fetchOpcode_eq (s : State) :
    fetchOpcode s = (peek s s.cpu.pc, afterFetch (peek s s.cpu.pc) (s.cpu.pc + 1) (afterRead s s.cpu.pc)) := by
  rw [fetchOpcode, fetchByte_fst, fetchByte_snd]
  rfl

theorem fetchByte_afterFetch (opcode : Byte) (pc : Word) (r : State) :
    fetchByte (afterFetch opcode pc r) = (peek r pc, afterFetch opcode (pc + 1) (afterRead r pc)) := by
  have hread : afterRead (afterFetch opcode pc r) pc = _ := afterRead_cpu_update r _ pc
  refine Prod.ext rfl ?_
  rw [fetchByte_snd, show (afterFetch opcode pc r).cpu.pc = pc from rfl, hread]
  simp only [afterFetch, State.setPC, State.setFlag, State.setP, State.setOpcode, afterRead_cpu]

section
variable (s : State)

/-- The instruction a fetch reads, from the bytes at PC, each read after the effects of the ones before (R141, R161). -/
theorem fetchedInstr_eq :
    let r1 := afterRead s s.cpu.pc
    let r2 := afterRead r1 (s.cpu.pc + 1)
    fetchedInstr s = assemble (peek s s.cpu.pc) (peek r1 (s.cpu.pc + 1)) (peek r2 (s.cpu.pc + 2)) := by
  intro r1 r2
  have hpc : s.cpu.pc + 1 + 1 = s.cpu.pc + 2 := by bv_omega
  simp only [fetchedInstr, fetch, fetchOpcode_eq]
  split <;> rename_i hcount <;> simp only [fetchByte_afterFetch, hpc]
  · exact assemble_congr (by omega) (by omega)
  · exact assemble_congr (fun _ => rfl) (by omega)
  · rfl

/-- The state a fetch leaves: the reads it needs, in address order, and PC past the last byte (R161). -/
theorem fetch_state_eq :
    let r1 := afterRead s s.cpu.pc
    let r2 := afterRead r1 (s.cpu.pc + 1)
    let r3 := afterRead r2 (s.cpu.pc + 2)
    let length := 1 + operandCount (peek s s.cpu.pc)
    (fetch s).state =
      afterFetch (peek s s.cpu.pc) (s.cpu.pc + BitVec.ofNat 16 length)
        (if length = 1 then r1 else if length = 2 then r2 else r3) := by
  intro r1 r2 r3 length
  have h2 : s.cpu.pc + 1 + 1 = s.cpu.pc + 2 := by bv_omega
  have h3 : s.cpu.pc + 2 + 1 = s.cpu.pc + 3 := by bv_omega
  have hle := operandCount_le_two (peek s s.cpu.pc)
  obtain hcount | hcount | hcount : operandCount (peek s s.cpu.pc) = 0 ∨ operandCount (peek s s.cpu.pc) = 1 ∨
    operandCount (peek s s.cpu.pc) = 2 := by omega
  all_goals simp only [fetch, fetchOpcode_eq, hcount, length, fetchByte_afterFetch, h2, h3]; rfl

end

/-- Settles O8: the clock group runs what its fetch reads, and the fetch in closed form is the reads in address order. -/
theorem stepFetchesInOrder : Obligations.StepFetchesInOrder := by
  intro s h hr u r1 r2 r3 opcode i length
  refine ⟨opcodeOf_assemble _ _ _, wellFormed_assemble _ _ _, length_encode_assemble _ _ _, ?_⟩
  have hinstr : fetchedInstr u = i := by
    have := fetchedInstr_eq u
    rwa [leadingTimerTicks_cpu] at this
  have hstate := fetch_state_eq u
  rw [leadingTimerTicks_cpu] at hstate
  rw [step_of_remaining_zero s hr, clockGroup_idle s h hr, hinstr, hstate]
  rfl

/-- A fetch outside the port window finds the bytes as they stand and has no side effect (R73). -/
theorem fetch_of_not_port (s : State)
    (h : ∀ k, k < 1 + operandCount (peek s s.cpu.pc) → ¬ IsPortAddress (s.cpu.pc + BitVec.ofNat 16 k)) :
    fetchedInstr s = assemble (peek s s.cpu.pc) (peek s (s.cpu.pc + 1)) (peek s (s.cpu.pc + 2)) ∧
    (fetch s).state =
      afterFetch (peek s s.cpu.pc) (s.cpu.pc + BitVec.ofNat 16 (1 + operandCount (peek s s.cpu.pc))) s := by
  have h0 : afterRead s s.cpu.pc = s := afterRead_of_not_port s _ (by simpa using h 0 (by omega))
  have h1 (hc : 1 ≤ operandCount (peek s s.cpu.pc)) : afterRead s (s.cpu.pc + 1) = s :=
    afterRead_of_not_port s _ (h 1 (by omega))
  have h2 (hc : 2 ≤ operandCount (peek s s.cpu.pc)) : afterRead s (s.cpu.pc + 2) = s :=
    afterRead_of_not_port s _ (h 2 (by omega))
  refine ⟨?_, ?_⟩
  · rw [fetchedInstr_eq, h0]
    exact assemble_congr (fun _ => rfl) (fun hc => by rw [h1 (by omega)])
  · rw [fetch_state_eq, h0]
    have hle := operandCount_le_two (peek s s.cpu.pc)
    obtain hc | hc | hc : operandCount (peek s s.cpu.pc) = 0 ∨ operandCount (peek s s.cpu.pc) = 1 ∨
      operandCount (peek s s.cpu.pc) = 2 := by omega
    · rw [hc, if_pos rfl]
    · rw [hc, if_neg (by decide), if_pos rfl, h1 (by omega)]
    · rw [hc, if_neg (by decide), if_neg (by decide), h1 (by omega), h2 (by omega)]

/-- The consumed bytes of two are the ones at the front of them. -/
theorem eq_of_take_append {c1 c2 b1 b2 : Byte} {rest : List Byte} {n : Nat} (h : [c1, c2] = [b1, b2].take n ++ rest) :
    (1 ≤ n → c1 = b1) ∧ (2 ≤ n → c2 = b2) := by
  obtain rfl | rfl | hn : n = 0 ∨ n = 1 ∨ 2 ≤ n := by omega
  · simp
  · simp [(List.cons.inj h).1]
  · rw [List.take_of_length_le (by simpa using hn)] at h
    simp_all

/-- Settles O7: the leading timer ticks change no byte outside the port window, where the fetch finds the bytes as they
stand, and the instruction depends on the bytes its opcode consumes alone. -/
theorem stepRunsDecodedInstruction : Obligations.StepRunsDecodedInstruction := by
  intro s i rest hw hr hports hdecode
  obtain ⟨opcode, b1, b2, hbytes, rfl⟩ := of_decode_eq_ok hdecode
  obtain ⟨hop, htail⟩ := List.cons.inj hbytes
  have hlen : (encode (assemble opcode b1 b2)).length = 1 + operandCount opcode := length_encode_assemble _ _ _
  rw [hlen] at hports
  have hpeek (k : Nat) (hk : k < 1 + operandCount opcode) :
      peek (leadingTimerTicks s) (s.cpu.pc + BitVec.ofNat 16 k) = peek s (s.cpu.pc + BitVec.ofNat 16 k) :=
    peek_timerTicks _ s _ (hports k hk)
  have hop' : peek (leadingTimerTicks s) s.cpu.pc = opcode := by
    rw [← hop]; simpa using hpeek 0 (by omega)
  obtain ⟨hinstr, hstate⟩ := fetch_of_not_port (leadingTimerTicks s) (by rwa [leadingTimerTicks_cpu, hop'])
  rw [leadingTimerTicks_cpu, hop'] at hinstr hstate
  have hsame : fetchedInstr (leadingTimerTicks s) = assemble opcode b1 b2 := by
    obtain ⟨hfirst, hsecond⟩ := eq_of_take_append htail
    rw [hinstr]
    exact assemble_congr (fun hc => (hpeek 1 (by omega)).trans (hfirst hc))
      (fun hc => (hpeek 2 (by omega)).trans (hsecond hc))
  rw [step_of_remaining_zero s hr, clockGroup_idle s hw hr, hsame, hstate, hlen, opcodeOf_assemble]
  rfl

end Sys2Proof.Machine

/-! PROOFS. Cycle counts (spec 40_execution_and_addressing.md section 3, 70_reset_and_hazards.md section 5): what `remaining`
holds after each shape of execution and so after every instruction, and the bound of R35. -/

namespace Sys2Proof.Machine

/-! ## Pages -/

theorem hiByte_toNat (w : Word) : (hiByte w).toNat = w.toNat / 256 := by
  have := w.isLt
  simp only [hiByte, BitVec.extractLsb'_toNat, Nat.shiftRight_eq_div_pow]
  omega

theorem loByte_toNat (w : Word) : (loByte w).toNat = w.toNat % 256 := by
  simp only [loByte, BitVec.extractLsb'_toNat, Nat.shiftRight_zero]

/-- Two addresses are in one page when their high bytes agree. -/
theorem hiByte_eq_iff (a b : Word) : hiByte a = hiByte b ↔ a.toNat / 256 = b.toNat / 256 := by
  rw [← BitVec.toNat_inj, hiByte_toNat, hiByte_toNat]

/-! ## Branches -/

/-- A branch that resolves records its offset (R153). -/
theorem resolved_rel (i : Instr) (off : Byte) (s : State) (h : i.operand = .rel off) :
    resolved i s = ((start i s).setAddrRel (sext16 off), false) := by
  rw [resolved, h, resolve]

/-- What a branch on flag `f` being `v` leaves (R260). -/
def branched (i : Instr) (off : Byte) (f : Flag) (v : Bool) (s : State) : State :=
  branchIf (s.flag f == v) (writeTemp ((start i s).setAddrRel (sext16 off)))

theorem plainInstr_branch (i : Instr) (off : Byte) (f : Flag) (v : Bool) (s : State) (h : i.operand = .rel off) :
    plainInstr i (fun t => branchIf (t.flag f == v) t) s = branched i off f v s := by
  rw [plainInstr_eq, resolved_rel i off s h]
  rfl

/-- The eight branches with the flag each tests and the value it branches on (R261-R268). -/
def branchTable (off : Byte) : List (Instr × Flag × Bool) :=
  [(.bcc off, .c, false), (.bcs off, .c, true), (.beq off, .z, true), (.bne off, .z, false), (.bmi off, .n, true),
    (.bpl off, .n, false), (.bvc off, .v, false), (.bvs off, .v, true)]

/-- Every branch of the table is one execution shape on its own flag test. -/
theorem exec_branch (off : Byte) (s : State) :
    ∀ b ∈ branchTable off, exec b.1 s = .next (branched b.1 off b.2.1 b.2.2 s) ∧ b.1.operand = .rel off ∧
      branchTest b.1 = some b.2 ∧ operationSignals b.1 = false := by
  have hshape (i : Instr) (f : Flag) (v : Bool) (ho : i.operand = .rel off)
      (he : exec i s = .next (plainInstr i (fun t => branchIf (t.flag f == v) t) s)) :
      exec i s = .next (branched i off f v s) := by
    rw [he, plainInstr_branch i off f v s ho]
  intro b hb
  simp only [branchTable, List.mem_cons, List.not_mem_nil, or_false] at hb
  obtain rfl | rfl | rfl | rfl | rfl | rfl | rfl | rfl := hb <;>
    exact ⟨hshape _ _ _ rfl (by simp [exec, execBcc, execBcs, execBeq, execBne, execBmi, execBpl, execBvc, execBvs]),
      rfl, rfl, rfl⟩

/-! ## The count after each shape of execution -/

/-- The cycle count of an instruction: its base count, the extra cycle when mode and operation both signal it, and a
branch's own extra (R142, R162). -/
def cycleCount (i : Instr) (s : State) : Nat :=
  baseCycles s.params i + (if (resolved i s).2 = true ∧ operationSignals i = true then 1 else 0) + branchExtra i s

theorem branchExtra_of_no_branch (i : Instr) (s : State) (h : branchTest i = none) : branchExtra i s = 0 := by
  rw [branchExtra, h]

/-- Not a branch and without an operation that signals: the base count alone. -/
theorem cycleCount_of_silent (i : Instr) (s : State) (ho : operationSignals i = false) (hb : branchTest i = none) :
    cycleCount i s = baseCycles s.params i := by
  simp [cycleCount, ho, branchExtra_of_no_branch i s hb]

section
variable (i : Instr) (s : State) (hb : branchTest i = none)
include hb

theorem remaining_readInstr (f : Byte → State → State) (hf : ∀ m u, (f m u).cpu.remaining = u.cpu.remaining) :
    (readInstr i (operationSignals i) f s).cpu.remaining = cycleCount i s := by
  simp [readInstr, hf, cycleCount, branchExtra_of_no_branch i s hb]

theorem remaining_modifyInstr (r : Byte → State → Byte) (f : Byte → State → State) (ho : operationSignals i = false)
    (hf : ∀ m u, (f m u).cpu.remaining = u.cpu.remaining) :
    (modifyInstr i r f s).cpu.remaining = cycleCount i s := by
  have hwrite (o : Operand) (v : Byte) (u : State) : (writeback o v u).cpu.remaining = u.cpu.remaining := by
    cases o <;> simp [writeback]
  rw [modifyInstr_eq, hwrite, hf, writeTemp_remaining, loaded_remaining, cycleCount_of_silent i s ho hb]

theorem remaining_storeInstr (v : State → Byte) (ho : operationSignals i = false) :
    (storeInstr i v s).cpu.remaining = cycleCount i s := by
  rw [storeInstr_eq, memWrite_cpu, writeTemp_remaining, resolved_remaining, cycleCount_of_silent i s ho hb]

theorem remaining_plainInstr (f : State → State) (ho : operationSignals i = false)
    (hf : ∀ u, (f u).cpu.remaining = u.cpu.remaining) : (plainInstr i f s).cpu.remaining = cycleCount i s := by
  rw [plainInstr_eq, hf, writeTemp_remaining, resolved_remaining, cycleCount_of_silent i s ho hb]

theorem remaining_idleInstr (ho : operationSignals i = false) : (idleInstr i s).cpu.remaining = cycleCount i s := by
  rw [idleInstr, addExtraCycle_false, resolved_remaining, cycleCount_of_silent i s ho hb]

end

/-- A taken branch pays for its target's page (R260). -/
theorem remaining_branched (i : Instr) (off : Byte) (f : Flag) (v : Bool) (s : State) (h : i.operand = .rel off)
    (hb : branchTest i = some (f, v)) (ho : operationSignals i = false) :
    (branched i off f v s).cpu.remaining = cycleCount i s := by
  have hextra : branchExtra i s =
      if s.flag f = v then if (s.cpu.pc + sext16 off).toNat / 256 = s.cpu.pc.toNat / 256 then 1 else 2 else 0 := by
    rw [branchExtra, hb, h]
  simp only [cycleCount, ho, hextra, branched, branchIf, beq_iff_eq, hiByte_eq_iff]
  split
  · simp
    congr
  · simp

section
variable (u : State)

theorem remaining_push (v : Byte) : (push v u).cpu.remaining = u.cpu.remaining := by rw [push_eq]; rfl
theorem remaining_pull : (pull u).2.cpu.remaining = u.cpu.remaining := by rw [pull_eq]; rfl
theorem remaining_pushWord (w : Word) : (pushWord w u).cpu.remaining = u.cpu.remaining := by rw [pushWord_eq]; rfl
theorem remaining_pullWord : (pullWord u).2.cpu.remaining = u.cpu.remaining := by rw [pullWord_eq]; rfl
theorem remaining_enterHandler (pushed : Byte) (vector : Word) (h : 0x4000 ≤ vector.toNat)
    (h' : vector.toNat < 0xFFFF) : (enterHandler pushed vector u).cpu.remaining = u.cpu.remaining := by
  rw [enterHandler_eq _ _ _ h h']; rfl
theorem remaining_returnFromInterrupt : (returnFromInterrupt u).cpu.remaining = u.cpu.remaining := by
  rw [returnFromInterrupt_eq]; rfl

end

/-- The cycle count of every instruction (R141, R142, R162). -/
theorem exec_remaining (i : Instr) (s : State) : ∃ t, exec i s = .next t ∧ t.cpu.remaining = cycleCount i s := by
  have hbranch (off : Byte) (b : Instr × Flag × Bool) (hb : b ∈ branchTable off) :
      ∃ t, exec b.1 s = .next t ∧ t.cpu.remaining = cycleCount b.1 s := by
    obtain ⟨he, ho, ht, hs⟩ := exec_branch off s b hb
    exact ⟨_, he, remaining_branched b.1 off b.2.1 b.2.2 s ho ht hs⟩
  cases i with
  | adc f | sbc f | and f | ora f | eor f | lda f | ldx f | ldy f | cmp f | bit f | cpx f | cpy f =>
    exact ⟨_, rfl, remaining_readInstr _ s rfl _ fun _ _ => rfl⟩
  | asl f | lsr f | rol f | ror f | inc f | dec f =>
    exact ⟨_, rfl, remaining_modifyInstr _ s rfl _ _ rfl fun _ _ => rfl⟩
  | sta f | stx f | sty f => exact ⟨_, rfl, remaining_storeInstr _ s rfl _ rfl⟩
  | bcc off => exact hbranch off (.bcc off, .c, false) (by simp [branchTable])
  | bcs off => exact hbranch off (.bcs off, .c, true) (by simp [branchTable])
  | beq off => exact hbranch off (.beq off, .z, true) (by simp [branchTable])
  | bne off => exact hbranch off (.bne off, .z, false) (by simp [branchTable])
  | bmi off => exact hbranch off (.bmi off, .n, true) (by simp [branchTable])
  | bpl off => exact hbranch off (.bpl off, .n, false) (by simp [branchTable])
  | bvc off => exact hbranch off (.bvc off, .v, false) (by simp [branchTable])
  | bvs off => exact hbranch off (.bvs off, .v, true) (by simp [branchTable])
  | inx | iny | dex | dey | jmp f | clc | sec | cli | sei | cld | sed | clv | tax | tay | txa | tya | tsx | txs =>
    exact ⟨_, rfl, remaining_plainInstr _ s rfl _ rfl fun _ => rfl⟩
  | php | pha => exact ⟨_, rfl, remaining_plainInstr _ s rfl _ rfl fun u => remaining_push u _⟩
  | pla | plp => exact ⟨_, rfl, remaining_plainInstr _ s rfl _ rfl remaining_pull⟩
  | jsr w => exact ⟨_, rfl, remaining_plainInstr _ s rfl _ rfl fun u => remaining_pushWord u _⟩
  | rts => exact ⟨_, rfl, remaining_plainInstr _ s rfl _ rfl remaining_pullWord⟩
  | rti => exact ⟨_, rfl, remaining_plainInstr _ s rfl _ rfl remaining_returnFromInterrupt⟩
  | brk => exact ⟨_, rfl, remaining_plainInstr _ s rfl _ rfl
      fun u => remaining_enterHandler _ _ _ (by decide) (by decide)⟩
  | nop | xxx opcode => exact ⟨_, rfl, remaining_idleInstr _ s rfl rfl⟩

/-- Settles O18, from the count of every shape. -/
theorem instructionCycleCount : Obligations.InstructionCycleCount := by
  intro i s
  obtain ⟨t, he, hr⟩ := exec_remaining i s
  exact ⟨t, he, hr, baseCycles_eq_tableCycles s.params i⟩

/-! ## Bounds -/

/-- No row of the timing table can reach more than 8 with the extra cycles its mnemonic admits (R35). -/
theorem cycleTable_add_extra_le (n : Mnemonic) (m : Mode) :
    cycleTable n m + (if [Mnemonic.adc, .and, .cmp, .eor, .lda, .ldx, .ldy, .ora, .sbc].contains n then 1 else 0) +
      (if n ∈ [Mnemonic.bcc, .bcs, .beq, .bne, .bmi, .bpl, .bvc, .bvs] then 2 else 0) ≤ 8 := by
  cases n <;> cases m <;> decide

theorem branchExtra_le (i : Instr) (s : State) :
    branchExtra i s ≤ if i.mnemonic ∈ [Mnemonic.bcc, .bcs, .beq, .bne, .bmi, .bpl, .bvc, .bvs] then 2 else 0 := by
  have hnone : i.mnemonic ∉ [Mnemonic.bcc, .bcs, .beq, .bne, .bmi, .bpl, .bvc, .bvs] → branchTest i = none := by
    rw [branchTest]
    cases i.mnemonic <;> decide
  split
  · rw [branchExtra]
    split
    · split
      · split <;> decide
      · decide
    · decide
  · rw [branchExtra_of_no_branch i s (hnone ‹_›)]

/-- A well-formed instruction takes at least 2 cycles (R126, U8). -/
theorem two_le_cycleCount (i : Instr) (s : State) (h : i.wellFormed = true) : 2 ≤ cycleCount i s := by
  have := two_le_tableCycles s.params i h
  rw [← baseCycles_eq_tableCycles s.params i h] at this
  rw [cycleCount]
  omega

/-- A well-formed instruction takes at most 8 cycles, when no UNDOC_CYCLES is more (R35). -/
theorem cycleCount_le (i : Instr) (s : State) (h : i.wellFormed = true)
    (hu : ∀ opcode, undocCycles s.params opcode ≤ 8) : cycleCount i s ≤ 8 := by
  obtain ⟨opcode, rfl, -⟩ | hn := wellFormed_cases i h
  · rw [cycleCount_of_silent _ s rfl rfl, baseCycles_eq_tableCycles _ _ h]
    exact hu opcode
  · refine le_trans ?_ (cycleTable_add_extra_le i.mnemonic i.operand.mode)
    rw [cycleCount, baseCycles_eq_tableCycles _ _ h, tableCycles_of_mnemonic _ i hn]
    have hsignal : (if (resolved i s).2 = true ∧ operationSignals i = true then 1 else 0) ≤
        if operationSignals i = true then 1 else 0 := by
      split <;> simp_all
    exact Nat.add_le_add (Nat.add_le_add_left hsignal _) (branchExtra_le i s)

end Sys2Proof.Machine

/-! PROOFS. What every step and every call of the host keeps (spec 10_state.md sections 2 to 6, 60_exceptions.md section
8): that a step completes, the invariant and the bound of `remaining`. -/

namespace Sys2Proof.Machine

/-! ## A tick and a step, taken apart -/

/-- What a CPU tick that answers a next state did (R140, R141). -/
theorem of_cpuTick_eq_next {s t : State} (h : cpuTick s = .next t) :
    (s.cpu.remaining ≠ 0 ∧ t = countCycle (s.setRemaining (s.cpu.remaining - 1))) ∨
    ∃ u, exec (fetchedInstr s) (fetch s).state = .next u ∧ t = countCycle (chargeFetchTick u) := by
  cases hw : s.wasReset with
  | false => rw [cpuTick_unreset s hw] at h; cases h
  | true =>
    by_cases hr : s.cpu.remaining = 0
    · obtain ⟨u, hu, -⟩ := exec_summary (fetchedInstr s) (fetch s).state
      have hfe : fetchExecute s = .next u := hu
      rw [cpuTick_idle s hw hr, hfe, andThen_next] at h
      cases h
      exact .inr ⟨u, hu, rfl⟩
    · rw [cpuTick_executing s hw hr] at h
      cases h
      exact .inl ⟨hr, rfl⟩

theorem of_andThen_eq_next {r : Result} {f : State → Result} {t : State} (h : andThen r f = .next t) :
    ∃ u, r = .next u ∧ f u = .next t := by
  cases r with
  | next u => exact ⟨u, rfl, h⟩
  | fault e => cases h
  | refused e => cases h

section
variable {P : State → Prop} (htimer : ∀ s, P s → P (timerTick s)) (hcpu : ∀ s t, P s → cpuTick s = .next t → P t)
include htimer

theorem timerTicks_keeps (n : Nat) : ∀ s, P s → P (timerTicks n s) := by
  induction n with
  | zero => exact fun s h => h
  | succ k ih => exact fun s h => ih _ (htimer s h)

include hcpu

/-- What timer ticks and CPU ticks keep, a clock group keeps. -/
theorem clockGroup_keeps (s t : State) (h : P s) (ht : clockGroup s = .next t) : P t := by
  obtain ⟨u, hu, hut⟩ := of_andThen_eq_next ht
  cases hut
  exact timerTicks_keeps htimer _ _ (hcpu _ _ (timerTicks_keeps htimer _ _ h) hu)

theorem finishInstruction_keeps (n : Nat) : ∀ s t, P s → finishInstruction n s = .next t → P t := by
  induction n with
  | zero => intro s t h ht; cases ht; exact h
  | succ k ih =>
    intro s t h ht
    rw [finishInstruction] at ht
    split at ht
    · cases ht; exact h
    · obtain ⟨u, hu, hut⟩ := of_andThen_eq_next ht
      exact ih u t (clockGroup_keeps htimer hcpu s u h hu) hut

/-- What timer ticks and CPU ticks keep, a step keeps (R450). -/
theorem step_keeps (s t : State) (h : P s) (ht : stepInstruction s = .next t) : P t := by
  obtain ⟨u, hu, hut⟩ := of_andThen_eq_next ht
  exact clockGroup_keeps htimer hcpu u t (finishInstruction_keeps htimer hcpu _ s u h hu) hut

end

/-! ## The end of a clock group -/

theorem chargeFetchTick_eq (s : State) :
    chargeFetchTick s =
      s.setRemaining (s.cpu.remaining - if s.params.fetchTickDecrements then 1 else 0) := by
  rw [chargeFetchTick]
  split <;> rfl

/-- The timer of a run of ticks is its own (R440). -/
theorem timerTicks_timer (n : Nat) : ∀ s : State, (timerTicks n s).timer = advanceTimer^[n] s.timer := by
  induction n with
  | zero => exact fun s => rfl
  | succ k ih => exact fun s => ih (timerTick s)

section
variable (t : State)

@[simp] theorem endGroup_wasReset : (endGroup t).wasReset = t.wasReset := by
  simp [endGroup, trailingTimerTicks, countCycle, chargeFetchTick_eq]
@[simp] theorem endGroup_params : (endGroup t).params = t.params := by
  simp [endGroup, trailingTimerTicks, countCycle, chargeFetchTick_eq]
@[simp] theorem endGroup_totalCycles : (endGroup t).cpu.totalCycles = t.cpu.totalCycles + 1 := by
  simp [endGroup, trailingTimerTicks, countCycle, chargeFetchTick_eq]
@[simp] theorem endGroup_remaining :
    (endGroup t).cpu.remaining = t.cpu.remaining - if t.params.fetchTickDecrements then 1 else 0 := by
  simp [endGroup, trailingTimerTicks, countCycle, chargeFetchTick_eq]
@[simp] theorem endGroup_timer :
    (endGroup t).timer = advanceTimer^[3 - t.params.timerTicksBeforeCpu.val] t.timer := by
  simp [endGroup, trailingTimerTicks, timerTicks_timer, countCycle, chargeFetchTick_eq]

end

/-- Where the step of a machine that was reset fetches: past the instruction in progress and the leading timer ticks. -/
def fetchPoint (s : State) : State := leadingTimerTicks (boundary s)

/-- A step of a machine that was reset completes with the instruction it fetches (R450). -/
theorem step_next (s : State) (h : s.wasReset = true) :
    ∃ t, exec (fetchedInstr (fetchPoint s)) (fetch (fetchPoint s)).state = .next t ∧ step s = .next (endGroup t) := by
  obtain ⟨t, ht, -⟩ := exec_summary (fetchedInstr (fetchPoint s)) (fetch (fetchPoint s)).state
  refine ⟨t, ht, ?_⟩
  rw [step_eq_clockGroup s h, clockGroup_idle _ (by simpa using h) (boundary_remaining s)]
  exact congrArg (andThen · _) ht

/-- Before the first reset a step is refused (70 R478). -/
theorem step_unreset (s : State) (h : s.wasReset = false) : step s = .refused .tickBeforeReset := by
  have hgroup : clockGroup s = .refused .tickBeforeReset := by
    rw [clockGroup, cpuTick_unreset _ (by simpa using h), andThen_refused]
  rw [step, stepInstruction]
  cases hr : s.cpu.remaining with
  | zero => rw [finishInstruction, andThen_next, hgroup]
  | succ k => rw [finishInstruction, if_neg (by omega), hgroup, andThen_refused, andThen_refused]

/-- Settles O10: the instruction's summary says what its execution leaves, the end of the clock group counts the last
tick, and every count is at least 2. -/
theorem stepCompletes : Obligations.StepCompletes := by
  refine ⟨fun s h => ?_, step_unreset⟩
  obtain ⟨t, ht, hstep⟩ := step_next s h
  obtain ⟨t', ht', hothers, -⟩ := exec_summary (fetchedInstr (fetchPoint s)) (fetch (fetchPoint s)).state
  obtain ⟨t'', ht'', hrem⟩ := exec_remaining (fetchedInstr (fetchPoint s)) (fetch (fetchPoint s)).state
  cases ht.symm.trans ht'
  cases ht.symm.trans ht''
  obtain ⟨htimer, hparams, hreset, hcycles, -⟩ := hothers
  obtain ⟨-, -, -, -, -, fcycles, -, -, ftimer, fparams, freset⟩ := fetch_frame (fetchPoint s)
  have htwo : 2 ≤ t.cpu.remaining := hrem ▸ two_le_cycleCount _ _ (wellFormed_fetchedInstr _)
  refine ⟨endGroup t, hstep, ?_, ?_, ?_, ?_, ?_⟩
  · rw [endGroup_wasReset, hreset, freset, fetchPoint, leadingTimerTicks_wasReset, boundary_wasReset, h]
  · rw [endGroup_params, hparams, fparams, fetchPoint, leadingTimerTicks, timerTicks_params, boundary_params]
  · rw [endGroup_remaining]
    split <;> omega
  · rw [endGroup_totalCycles, hcycles, fcycles, fetchPoint, leadingTimerTicks_cpu, boundary_totalCycles]
  · have hp : t.params = s.params := by
      rw [hparams, fparams, fetchPoint, leadingTimerTicks, timerTicks_params, boundary_params]
    have hk := s.params.timerTicksBeforeCpu.isLt
    rw [endGroup_timer, htimer, ftimer, fetchPoint, leadingTimerTicks, timerTicks_timer, boundary_timer,
      timerTicks_timer, timerTicks_timer, hp, boundary_params, ← Function.iterate_add_apply,
      ← Function.iterate_add_apply]
    congr 1
    omega

/-! ## The invariant -/

theorem cpuTick_inv (s t : State) (h : s.Inv) (ht : cpuTick s = .next t) : t.Inv := by
  obtain ⟨-, rfl⟩ | ⟨u, hu, rfl⟩ := of_cpuTick_eq_next ht
  · exact h.congr rfl rfl rfl rfl
  · obtain ⟨u', hu', -, hkeep⟩ := exec_summary (fetchedInstr s) (fetch s).state
    cases hu.symm.trans hu'
    rw [chargeFetchTick_eq]
    exact (hkeep (fetch_inv s h)).congr rfl rfl rfl rfl

/-- Settles O11: timer ticks and CPU ticks keep the invariant, so a step does. -/
theorem stepKeepsInv : Obligations.StepKeepsInv := step_keeps timerTick_inv cpuTick_inv

/-- Settles O12, by running `reset()`; the invariant of a machine without memory contents is a finite check. -/
theorem resetState : Obligations.ResetState := by
  refine ⟨rfl, ?_⟩
  constructor
  case cartridge => exact fun c hc => by cases hc
  case graphics => constructor <;> decide
  case counters => constructor <;> decide
  all_goals decide

theorem interruptEntry_inv (vector : Word) (s : State) (h : s.Inv) : (interruptEntry vector s).Inv :=
  enterHandler_inv _ _ _ (h.congr rfl rfl rfl rfl)

theorem atBoundary_of_remaining_zero (s : State) (f : State → State) (h : s.cpu.remaining = 0) :
    atBoundary s f = .next (f s) := if_pos h

theorem atBoundary_of_remaining_ne_zero (s : State) (f : State → State) (h : s.cpu.remaining ≠ 0) :
    atBoundary s f = .refused .interruptMidInstruction := if_neg h

theorem of_atBoundary_eq_next {s t : State} {f : State → State} (h : atBoundary s f = .next t) : t = f s := by
  by_cases hr : s.cpu.remaining = 0
  · rw [atBoundary_of_remaining_zero s f hr] at h
    cases h; rfl
  · rw [atBoundary_of_remaining_ne_zero s f hr] at h
    cases h

/-- An `irq` that answers was masked or entered the handler (R411). -/
theorem of_irq_eq_next {s t : State} (h : irq s = .next t) :
    (s.flag .i = true ∧ t = s) ∨ t = (interruptEntry 0xFFFE s).setRemaining 7 := by
  cases hi : s.flag .i with
  | true => exact .inl ⟨rfl, by simpa [hi] using of_atBoundary_eq_next h⟩
  | false => exact .inr (by simpa [hi] using of_atBoundary_eq_next h)

/-- An `nmi` that answers entered the handler (R412). -/
theorem of_nmi_eq_next {s t : State} (h : nmi s = .next t) : t = (interruptEntry 0xFFFA s).setRemaining 8 :=
  of_atBoundary_eq_next h

/-- Settles O13, call by call. -/
theorem hostCallsKeepInv : Obligations.HostCallsKeepInv := by
  intro c s t h ht
  cases c with
  | loadCartridge image => exact loadCartridge_inv image s t h ht
  | reset => cases ht; exact resetCpu_inv s h
  | irq =>
    obtain ⟨-, rfl⟩ | rfl := of_irq_eq_next ht
    · exact h
    · exact (interruptEntry_inv _ s h).congr rfl rfl rfl rfl
  | nmi =>
    rw [of_nmi_eq_next ht]
    exact (interruptEntry_inv _ s h).congr rfl rfl rfl rfl
  | cpuTick => exact cpuTick_inv s t h ht
  | timerTick => cases ht; exact timerTick_inv s h
  | clockGroup => exact clockGroup_keeps timerTick_inv cpuTick_inv s t h ht
  | step => exact step_keeps timerTick_inv cpuTick_inv s t h ht
  | ppuWrite a d => cases ht; exact ppuWrite_inv s a d h
  | ppuRead a | peek a | describe opcode => cases ht; exact h
  | clearFrameComplete => cases ht; exact { h with counters := { h.counters with } }

/-! ## The bound of `remaining` -/

theorem State.CyclesBounded.congr {s t : State} (h : s.CyclesBounded) (hp : t.params = s.params)
    (hr : t.cpu.remaining ≤ 8) : t.CyclesBounded := ⟨hp ▸ h.parameter, hr⟩

theorem timerTick_cyclesBounded (s : State) (h : s.CyclesBounded) : (timerTick s).CyclesBounded :=
  h.congr rfl h.remaining

theorem cpuTick_cyclesBounded (s t : State) (h : s.CyclesBounded) (ht : cpuTick s = .next t) : t.CyclesBounded := by
  have hr := h.remaining
  obtain ⟨-, rfl⟩ | ⟨u, hu, rfl⟩ := of_cpuTick_eq_next ht
  · exact h.congr rfl (by simp only [countCycle, State.setTotalCycles_remaining, State.setRemaining_remaining]; omega)
  · obtain ⟨u', hu', ⟨-, hparams, -⟩, -⟩ := exec_summary (fetchedInstr s) (fetch s).state
    obtain ⟨u'', hu'', hrem⟩ := exec_remaining (fetchedInstr s) (fetch s).state
    cases hu.symm.trans hu'
    cases hu.symm.trans hu''
    obtain ⟨-, -, -, -, -, -, -, -, -, fparams, -⟩ := fetch_frame s
    have hle := cycleCount_le _ (fetch s).state (wellFormed_fetchedInstr s) (fparams ▸ h.parameter)
    rw [chargeFetchTick_eq]
    exact h.congr (hparams.trans fparams)
      (by simp only [countCycle, State.setTotalCycles_remaining, State.setRemaining_remaining]; omega)

theorem interruptEntry_params (vector : Word) (s : State) (h : 0x4000 ≤ vector.toNat) (h' : vector.toNat < 0xFFFF) :
    (interruptEntry vector s).params = s.params :=
  (othersKept_enterHandler _ vector (s.setP (interruptStatus s.cpu.p)) h h').2.1

/-- Settles O14, call by call: ticks by the bound of every instruction's count, the entries by their own counts. -/
theorem remainingStaysBounded : Obligations.RemainingStaysBounded := by
  intro c s t h ht
  cases c with
  | loadCartridge image =>
    simp only [hostCall, loadCartridge] at ht
    split at ht
    · cases ht; exact h.congr rfl h.remaining
    · cases ht
  | reset => cases ht; exact h.congr (by simp [resetCpu]) (Nat.zero_le 8)
  | irq =>
    obtain ⟨-, rfl⟩ | rfl := of_irq_eq_next ht
    · exact h
    · exact h.congr (interruptEntry_params 0xFFFE s (by decide) (by decide)) (by simp)
  | nmi =>
    rw [of_nmi_eq_next ht]
    exact h.congr (interruptEntry_params 0xFFFA s (by decide) (by decide)) (by simp)
  | cpuTick => exact cpuTick_cyclesBounded s t h ht
  | timerTick => cases ht; exact timerTick_cyclesBounded s h
  | clockGroup => exact clockGroup_keeps timerTick_cyclesBounded cpuTick_cyclesBounded s t h ht
  | step => exact step_keeps timerTick_cyclesBounded cpuTick_cyclesBounded s t h ht
  | ppuWrite a d =>
    cases ht
    obtain ⟨hcpu, -, -, hparams, -⟩ := ppuWrite_frame s a d
    exact h.congr hparams (hcpu ▸ h.remaining)
  | ppuRead a | peek a | describe opcode => cases ht; exact h
  | clearFrameComplete => cases ht; exact h.congr rfl h.remaining

/-! ## Interrupts masked and refused -/

/-- Settles O47: the boundary is checked first, then the mask. -/
theorem interruptsMaskedOrRefused : Obligations.InterruptsMaskedOrRefused := by
  refine fun s => ⟨fun hr hi => ?_, fun hr => ⟨?_, ?_⟩⟩
  · rw [irq, atBoundary_of_remaining_zero s _ hr, if_pos hi]
  · exact atBoundary_of_remaining_ne_zero s _ hr
  · exact atBoundary_of_remaining_ne_zero s _ hr

/-! ## Reset -/

/-- The vector of `reset()` lies where reads have no side effect, so only CPU registers change (70 R471, R472). -/
theorem resetCpu_eq (s : State) :
    resetCpu s = { s with
      cpu := { s.cpu with
        a := 0, x := 0, y := 0, sp := 0xFD, pc := w16 (peek s 0xFFFC) (peek s 0xFFFD), p := peek s 0xFFFC,
        remaining := 0 }
      wasReset := true } := by
  have hlow : afterRead s 0xFFFC = s := afterRead_of_not_port s _ fun h => absurd h.2 (by decide)
  have hhigh : afterRead s 0xFFFD = s := afterRead_of_not_port s _ fun h => absurd h.2 (by decide)
  simp only [resetCpu, memRead, hlow, hhigh]

/-- Settles O48, from `reset()` in closed form. -/
theorem resetEffect : Obligations.ResetEffect := by
  intro s
  refine ⟨_, rfl, ?_⟩
  rw [resetCpu_eq]
  exact ⟨rfl, rfl, rfl, rfl, rfl, rfl, rfl, rfl, rfl, rfl, rfl, rfl, rfl, rfl⟩

end Sys2Proof.Machine

/-! PROOFS. Relations between states that every instruction respects, and three of them: states that differ in scratch
fields (spec 10_state.md R34), states that differ in the decimal flag (R26), and the cartridge of one state (20_memory.md
section 6). -/

namespace Sys2Proof.Machine

/-! ## A relation every operation of the machine respects -/

/-- `E` relates states with the same registers, flags but D, memories and effects of accesses, and each register write,
each flag write but of D, each access and each scratch write keeps it. With `whole`, the whole of P is the same too. -/
structure Respects (E : State → State → Prop) (whole : Bool) : Prop where
  a {s t} : E s t → t.cpu.a = s.cpu.a
  x {s t} : E s t → t.cpu.x = s.cpu.x
  y {s t} : E s t → t.cpu.y = s.cpu.y
  sp {s t} : E s t → t.cpu.sp = s.cpu.sp
  pc {s t} : E s t → t.cpu.pc = s.cpu.pc
  remaining {s t} : E s t → t.cpu.remaining = s.cpu.remaining
  params {s t} : E s t → t.params = s.params
  flag {s t} (f : Flag) : f ≠ .d → E s t → t.flag f = s.flag f
  peek {s t} (a : Word) : E s t → Machine.peek t a = Machine.peek s a
  afterRead {s t} (a : Word) : E s t → E (Machine.afterRead s a) (Machine.afterRead t a)
  memWrite {s t} (a : Word) (v : Byte) : E s t → E (Machine.memWrite s a v) (Machine.memWrite t a v)
  setA {s t} (v : Byte) : E s t → E (s.setA v) (t.setA v)
  setX {s t} (v : Byte) : E s t → E (s.setX v) (t.setX v)
  setY {s t} (v : Byte) : E s t → E (s.setY v) (t.setY v)
  setSP {s t} (v : Byte) : E s t → E (s.setSP v) (t.setSP v)
  setPC {s t} (v : Word) : E s t → E (s.setPC v) (t.setPC v)
  setRemaining {s t} (v : Nat) : E s t → E (s.setRemaining v) (t.setRemaining v)
  setFlag {s t} (f : Flag) (v : Bool) : f ≠ .d → E s t → E (s.setFlag f v) (t.setFlag f v)
  setOpcode {s t} (v : Byte) : E s t → E (s.setOpcode v) (t.setOpcode v)
  setFetched {s t} (v : Byte) : E s t → E (s.setFetched v) (t.setFetched v)
  setAddrAbs {s t} (v : Word) : E s t → E (s.setAddrAbs v) (t.setAddrAbs v)
  setAddrRel {s t} (v : Word) : E s t → E (s.setAddrRel v) (t.setAddrRel v)
  writeTemp {s t} : E s t → E (Machine.writeTemp s) (Machine.writeTemp t)
  p {s t} : whole = true → E s t → t.cpu.p = s.cpu.p
  setP {s t} (v : Byte) : whole = true → E s t → E (s.setP v) (t.setP v)

namespace Respects

section
variable {E : State → State → Prop} {whole : Bool} (R : Respects E whole) {s t : State} (h : E s t)
include R h

/-! ### Registers and flags -/

theorem setZN (v : Byte) : E (Machine.setZN v s) (Machine.setZN v t) :=
  R.setFlag .n _ (by decide) (R.setFlag .z _ (by decide) h)

theorem putA (v : Byte) : E (Machine.putA v s) (Machine.putA v t) := R.setZN (R.setA v h) v
theorem putX (v : Byte) : E (Machine.putX v s) (Machine.putX v t) := R.setZN (R.setX v h) v
theorem putY (v : Byte) : E (Machine.putY v s) (Machine.putY v t) := R.setZN (R.setY v h) v

theorem shiftFlags (out : Bool) (r : Byte) : E (Machine.shiftFlags out r s) (Machine.shiftFlags out r t) :=
  R.setZN (R.setFlag .c out (by decide) h) r

theorem compareWith (reg m : Byte) : E (Machine.compareWith reg m s) (Machine.compareWith reg m t) :=
  R.setZN (R.setFlag .c _ (by decide) h) (reg - m)

/-- ADC and SBC read the carry and write C, V, Z, N and A. -/
theorem addToA (m : Byte) : E (Machine.addToA m s) (Machine.addToA m t) := by
  simp only [Machine.addToA, R.a h, R.flag .c (by decide) h]
  exact R.setA _ (R.setZN (R.setFlag .v _ (by decide) (R.setFlag .c _ (by decide) h)) _)

theorem bitTest (a m : Byte) : E (s.setP (bitFlags s.cpu.p a m)) (t.setP (bitFlags t.cpu.p a m)) :=
  R.setFlag .v _ (by decide) (R.setFlag .n _ (by decide) (R.setFlag .z _ (by decide) h))

theorem branchIf (c : Bool) (ha : t.cpu.addrRel = s.cpu.addrRel) : E (Machine.branchIf c s) (Machine.branchIf c t) := by
  simp only [Machine.branchIf, R.pc h, R.remaining h, ha]
  split
  · exact R.setPC _ (R.setRemaining _ h)
  · exact h

/-! ### The stack -/

theorem push (v : Byte) : E (Machine.push v s) (Machine.push v t) := by
  simp only [Machine.push, memWrite_cpu, R.sp h]
  exact R.setSP _ (R.memWrite _ v h)

theorem pull : (Machine.pull t).1 = (Machine.pull s).1 ∧ E (Machine.pull s).2 (Machine.pull t).2 := by
  simp only [Machine.pull, memRead_fst, memRead_snd, State.setSP_sp, R.sp h]
  have hsp := R.setSP (s.cpu.sp + 1) h
  exact ⟨R.peek _ hsp, R.afterRead _ hsp⟩

theorem pushWord (w : Word) : E (Machine.pushWord w s) (Machine.pushWord w t) := R.push (R.push h _) _

theorem pullWord : (Machine.pullWord t).1 = (Machine.pullWord s).1 ∧ E (Machine.pullWord s).2 (Machine.pullWord t).2 := by
  obtain ⟨hlo, hs⟩ := R.pull h
  obtain ⟨hhi, hs'⟩ := R.pull hs
  exact ⟨congrArg₂ w16 hlo hhi, hs'⟩

theorem enterHandler (pushed : Byte) (vector : Word) :
    E (Machine.enterHandler pushed vector s) (Machine.enterHandler pushed vector t) := by
  simp only [Machine.enterHandler, read16, memRead_fst, memRead_snd, R.pc h]
  have hflag := R.setFlag .i true (by decide) (R.push (R.pushWord h s.cpu.pc) pushed)
  have hlow := R.afterRead vector hflag
  rw [R.peek _ hflag, R.peek _ hlow]
  exact R.setPC _ (R.afterRead _ hlow)

theorem returnFromInterrupt (hw : whole = true) : E (Machine.returnFromInterrupt s) (Machine.returnFromInterrupt t) := by
  obtain ⟨hp, hpull⟩ := R.pull h
  obtain ⟨hpc, hword⟩ := R.pullWord (R.setP (returnedStatus (Machine.pull s).1) hw hpull)
  simp only [Machine.returnFromInterrupt, hp, hpc]
  exact R.setPC _ hword

/-! ### Operands -/

/-- Resolving reads no scratch field, and every mode that names an address leaves the same one. -/
theorem resolve (o : Operand) :
    E (Machine.resolve o s).1 (Machine.resolve o t).1 ∧ (Machine.resolve o t).2 = (Machine.resolve o s).2 ∧
    (o.mode ≠ .imp → o.mode ≠ .rel →
      (Machine.resolve o t).1.cpu.addrAbs = (Machine.resolve o s).1.cpu.addrAbs) := by
  cases o with
  | imp => exact ⟨h, rfl, fun hi => absurd rfl hi⟩
  | rel off => exact ⟨R.setAddrRel _ h, rfl, fun _ hr => absurd rfl hr⟩
  | ind ptr =>
    have hlo := R.afterRead ptr h
    simp only [Machine.resolve, memRead_fst, memRead_snd, R.peek _ h, R.peek _ hlo]
    exact ⟨R.setAddrAbs _ (R.afterRead _ hlo), trivial, fun _ _ => rfl⟩
  | izx z =>
    simp only [Machine.resolve, readZeroPage16_eq, R.x h, R.peek _ h]
    exact ⟨R.setAddrAbs _ h, trivial, fun _ _ => rfl⟩
  | izy z =>
    simp only [Machine.resolve, readZeroPage16_eq, R.y h, R.peek _ h]
    exact ⟨R.setAddrAbs _ h, trivial, fun _ _ => rfl⟩
  | imm _ | zp0 _ | zpx _ | zpy _ | abs _ | abx _ | aby _ =>
    simp only [Machine.resolve, R.pc h, R.x h, R.y h]
    exact ⟨R.setAddrAbs _ h, trivial, fun _ _ => rfl⟩

theorem start (i : Instr) : E (Machine.start i s) (Machine.start i t) := by
  simp only [Machine.start, R.params h]
  exact R.setRemaining _ h

theorem resolved (i : Instr) :
    E (Machine.resolved i s).1 (Machine.resolved i t).1 ∧ (Machine.resolved i t).2 = (Machine.resolved i s).2 ∧
    (i.operand.mode ≠ .imp → i.operand.mode ≠ .rel → effectiveAddress i t = effectiveAddress i s) :=
  R.resolve (R.start h i) i.operand

/-- Reading an operand reads no scratch field but the address just resolved. -/
theorem readOperand (o : Operand) (ha : o.mode ≠ .imp → t.cpu.addrAbs = s.cpu.addrAbs) :
    (Machine.readOperand o t).1 = (Machine.readOperand o s).1 ∧
    E (Machine.readOperand o s).2 (Machine.readOperand o t).2 := by
  cases o with
  | imp => simp only [Machine.readOperand, R.a h]; exact ⟨trivial, R.setFetched _ h⟩
  | imm n => exact ⟨rfl, R.setFetched n h⟩
  | _ =>
    simp only [Machine.readOperand, memRead_fst, memRead_snd, ha (by simp [Operand.mode]), R.peek _ h]
    exact ⟨trivial, R.setFetched _ (R.afterRead _ h)⟩

theorem loaded (i : Instr) (hr : i.operand.mode ≠ .rel) :
    (Machine.loaded i t).1 = (Machine.loaded i s).1 ∧ E (Machine.loaded i s).2 (Machine.loaded i t).2 := by
  obtain ⟨hE, -, ha⟩ := R.resolved h i
  exact R.readOperand hE i.operand fun hi => ha hi hr

theorem writeback (o : Operand) (v : Byte) (ha : o.mode ≠ .imp → t.cpu.addrAbs = s.cpu.addrAbs) :
    E (Machine.writeback o v s) (Machine.writeback o v t) := by
  cases o with
  | imp => exact R.setA v h
  | _ =>
    simp only [Machine.writeback, ha (by simp [Operand.mode])]
    exact R.memWrite _ v h

/-! ### The shapes of execution -/

theorem addExtraCycle (m o : Bool) : E (Machine.addExtraCycle m o s) (Machine.addExtraCycle m o t) := by
  simp only [addExtraCycle_eq, R.remaining h]
  exact R.setRemaining _ h

theorem readInstr (i : Instr) (hr : i.operand.mode ≠ .rel) (signal : Bool) (f : Byte → State → State)
    (hf : ∀ m {u v}, E u v → E (f m u) (f m v)) :
    E (Machine.readInstr i signal f s) (Machine.readInstr i signal f t) := by
  obtain ⟨-, hsignal, -⟩ := R.resolved h i
  obtain ⟨hval, hE⟩ := R.loaded h i hr
  simp only [Machine.readInstr, hval, hsignal]
  exact R.addExtraCycle (hf _ (R.writeTemp hE)) _ _

theorem modifyInstr (i : Instr) (hr : i.operand.mode ≠ .rel) (r : Byte → State → Byte) (f : Byte → State → State)
    (hres : ∀ m {u v}, E u v → r m v = r m u) (hf : ∀ m {u v}, E u v → E (f m u) (f m v))
    (haddr : ∀ m u, (f m u).cpu.addrAbs = u.cpu.addrAbs) :
    E (Machine.modifyInstr i r f s) (Machine.modifyInstr i r f t) := by
  obtain ⟨-, -, ha⟩ := R.resolved h i
  obtain ⟨hval, hE⟩ := R.loaded h i hr
  simp only [modifyInstr_eq, hval, hres _ (R.writeTemp hE)]
  refine R.writeback (hf _ (R.writeTemp hE)) _ _ fun hi => ?_
  simp only [haddr, writeTemp_addrAbs, loaded_addrAbs, ha hi hr]

theorem storeInstr (i : Instr) (hi : i.operand.mode ≠ .imp) (hr : i.operand.mode ≠ .rel) (val : State → Byte)
    (hval : ∀ {u v}, E u v → val v = val u) : E (Machine.storeInstr i val s) (Machine.storeInstr i val t) := by
  obtain ⟨hE, -, ha⟩ := R.resolved h i
  simp only [storeInstr_eq, ha hi hr, hval (R.writeTemp hE)]
  exact R.memWrite _ _ (R.writeTemp hE)

theorem plainInstr (i : Instr) (f : State → State)
    (hf : ∀ {u v}, E u v →
      (i.operand.mode ≠ .imp → i.operand.mode ≠ .rel → v.cpu.addrAbs = u.cpu.addrAbs) → E (f u) (f v)) :
    E (Machine.plainInstr i f s) (Machine.plainInstr i f t) := by
  obtain ⟨hE, -, ha⟩ := R.resolved h i
  simp only [plainInstr_eq]
  exact hf (R.writeTemp hE) ha

theorem idleInstr (i : Instr) : E (Machine.idleInstr i s) (Machine.idleInstr i t) := by
  simp only [Machine.idleInstr, addExtraCycle_false]
  exact (R.resolved h i).1

theorem branched (i : Instr) (off : Byte) (f : Flag) (v : Bool) (hf : f ≠ .d) :
    E (Machine.branched i off f v s) (Machine.branched i off f v t) := by
  simp only [Machine.branched, R.flag f hf h]
  exact R.branchIf (R.writeTemp (R.setAddrRel _ (R.start h i))) _ rfl

end

end Respects

/-- Only branches have a relative operand (R153). -/
theorem mode_ne_rel (i : Instr) (h : branchTest i = none) : i.operand.mode ≠ .rel := by
  cases i
  case bcc | bcs | beq | bne | bmi | bpl | bvc | bvs => cases h
  case adc f | sbc f | and f | ora f | eor f | bit f | asl f | lsr f | rol f | ror f | inc f | dec f | cmp f | cpx f
    | cpy f | jmp f | lda f | ldx f | ldy f | sta f | stx f | sty f => cases f <;> exact Mode.noConfusion
  all_goals exact Mode.noConfusion

/-- No branch tests D (R261-R268). -/
theorem branchTable_flag_ne_d (off : Byte) : ∀ b ∈ branchTable off, b.2.1 ≠ .d := by simp [branchTable]

/-- The instructions that read or write P as a whole, or write D. -/
def statusMnemonics : List Mnemonic := [.plp, .rti, .cld, .sed, .php, .brk]

/-- Every instruction respects a relation that all its operations respect; the instructions that move the whole of P or
write D do when the relation keeps the whole of P. -/
theorem Respects.exec {E : State → State → Prop} {whole : Bool} (R : Respects E whole) {s t : State} (h : E s t)
    (i : Instr) (hw : whole = true ∨ i.mnemonic ∉ statusMnemonics) :
    ∃ s' t', Machine.exec i s = .next s' ∧ Machine.exec i t = .next t' ∧ E s' t' := by
  have hbranch (off : Byte) (b : Instr × Flag × Bool) (hb : b ∈ branchTable off) :
      ∃ s' t', Machine.exec b.1 s = .next s' ∧ Machine.exec b.1 t = .next t' ∧ E s' t' :=
    ⟨_, _, (exec_branch off s b hb).1, (exec_branch off t b hb).1,
      R.branched h b.1 off b.2.1 b.2.2 (branchTable_flag_ne_d off b hb)⟩
  have hwhole (hs : i.mnemonic ∈ statusMnemonics) : whole = true := hw.resolve_right (absurd hs)
  cases i with
  | adc f => exact ⟨_, _, rfl, rfl, R.readInstr h _ (mode_ne_rel _ rfl) _ _ fun m _ _ hE => R.addToA hE m⟩
  | sbc f => exact ⟨_, _, rfl, rfl, R.readInstr h _ (mode_ne_rel _ rfl) _ _ fun m _ _ hE => R.addToA hE _⟩
  | and f | ora f | eor f =>
    exact ⟨_, _, rfl, rfl, R.readInstr h _ (mode_ne_rel _ rfl) _ _ fun m _ _ hE => by
      simp only [R.a hE]; exact R.putA hE _⟩
  | bit f => exact ⟨_, _, rfl, rfl, R.readInstr h _ (mode_ne_rel _ rfl) _ _ fun m _ _ hE => by
      simp only [R.a hE]; exact R.bitTest hE _ m⟩
  | lda f => exact ⟨_, _, rfl, rfl, R.readInstr h _ (mode_ne_rel _ rfl) _ _ fun m _ _ hE => R.putA hE m⟩
  | ldx f => exact ⟨_, _, rfl, rfl, R.readInstr h _ (mode_ne_rel _ rfl) _ _ fun m _ _ hE => R.putX hE m⟩
  | ldy f => exact ⟨_, _, rfl, rfl, R.readInstr h _ (mode_ne_rel _ rfl) _ _ fun m _ _ hE => R.putY hE m⟩
  | cmp f | cpx f | cpy f =>
    exact ⟨_, _, rfl, rfl, R.readInstr h _ (mode_ne_rel _ rfl) _ _ fun m _ _ hE => by
      simp only [R.a hE, R.x hE, R.y hE]; exact R.compareWith hE _ m⟩
  | asl f | lsr f =>
    exact ⟨_, _, rfl, rfl, R.modifyInstr h _ (mode_ne_rel _ rfl) _ _ (fun _ _ _ _ => rfl)
      (fun m _ _ hE => R.shiftFlags hE _ _) fun _ _ => rfl⟩
  | rol f | ror f =>
    exact ⟨_, _, rfl, rfl, R.modifyInstr h _ (mode_ne_rel _ rfl) _ _
      (fun m _ _ hE => by simp only [R.flag .c (by decide) hE])
      (fun m _ _ hE => by simp only [R.flag .c (by decide) hE]; exact R.shiftFlags hE _ _) fun _ _ => rfl⟩
  | inc f | dec f =>
    exact ⟨_, _, rfl, rfl, R.modifyInstr h _ (mode_ne_rel _ rfl) _ _ (fun _ _ _ _ => rfl)
      (fun m _ _ hE => R.setZN hE _) fun _ _ => rfl⟩
  | sta f | stx f | sty f =>
    exact ⟨_, _, rfl, rfl, R.storeInstr h _ (by cases f <;> exact Mode.noConfusion) (mode_ne_rel _ rfl) _
      fun hE => by simp only [R.a hE, R.x hE, R.y hE]⟩
  | bcc off => exact hbranch off (.bcc off, .c, false) (by simp [branchTable])
  | bcs off => exact hbranch off (.bcs off, .c, true) (by simp [branchTable])
  | beq off => exact hbranch off (.beq off, .z, true) (by simp [branchTable])
  | bne off => exact hbranch off (.bne off, .z, false) (by simp [branchTable])
  | bmi off => exact hbranch off (.bmi off, .n, true) (by simp [branchTable])
  | bpl off => exact hbranch off (.bpl off, .n, false) (by simp [branchTable])
  | bvc off => exact hbranch off (.bvc off, .v, false) (by simp [branchTable])
  | bvs off => exact hbranch off (.bvs off, .v, true) (by simp [branchTable])
  | inx | dex | tax | tsx =>
    exact ⟨_, _, rfl, rfl, R.plainInstr h _ _ fun hE _ => by
      simp only [R.a hE, R.x hE, R.sp hE]; exact R.putX hE _⟩
  | iny | dey | tay =>
    exact ⟨_, _, rfl, rfl, R.plainInstr h _ _ fun hE _ => by simp only [R.a hE, R.y hE]; exact R.putY hE _⟩
  | txa | tya =>
    exact ⟨_, _, rfl, rfl, R.plainInstr h _ _ fun hE _ => by simp only [R.x hE, R.y hE]; exact R.putA hE _⟩
  | txs => exact ⟨_, _, rfl, rfl, R.plainInstr h _ _ fun hE _ => by simp only [R.x hE]; exact R.setSP _ hE⟩
  | clc | sec | cli | sei | clv =>
    exact ⟨_, _, rfl, rfl, R.plainInstr h _ _ fun hE _ => R.setFlag _ _ (by decide) hE⟩
  | cld | sed =>
    exact ⟨_, _, rfl, rfl, R.plainInstr h _ _ fun hE _ => by
      have hall := hwhole (by decide)
      simp only [State.setFlag, R.p hall hE]; exact R.setP _ hall hE⟩
  | php => exact ⟨_, _, rfl, rfl, R.plainInstr h _ _ fun hE _ => by
      simp only [R.p (hwhole (by decide)) hE]; exact R.push hE _⟩
  | pha => exact ⟨_, _, rfl, rfl, R.plainInstr h _ _ fun hE _ => by simp only [R.a hE]; exact R.push hE _⟩
  | pla => exact ⟨_, _, rfl, rfl, R.plainInstr h _ _ fun hE _ => by
      simp only [(R.pull hE).1]; exact R.putA (R.pull hE).2 _⟩
  | plp => exact ⟨_, _, rfl, rfl, R.plainInstr h _ _ fun hE _ => by
      simp only [(R.pull hE).1]; exact R.setP _ (hwhole (by decide)) (R.pull hE).2⟩
  | jmp f => exact ⟨_, _, rfl, rfl, R.plainInstr h _ _ fun hE ha => by
      rw [ha (by cases f <;> exact Mode.noConfusion) (mode_ne_rel _ rfl)]; exact R.setPC _ hE⟩
  | jsr w => exact ⟨_, _, rfl, rfl, R.plainInstr h _ _ fun hE ha => by
      rw [ha Mode.noConfusion Mode.noConfusion, R.pc hE]; exact R.setPC _ (R.pushWord hE _)⟩
  | rts => exact ⟨_, _, rfl, rfl, R.plainInstr h _ _ fun hE _ => by
      simp only [(R.pullWord hE).1]; exact R.setPC _ (R.pullWord hE).2⟩
  | rti => exact ⟨_, _, rfl, rfl, R.plainInstr h _ _ fun hE _ => R.returnFromInterrupt hE (hwhole (by decide))⟩
  | brk => exact ⟨_, _, rfl, rfl, R.plainInstr h _ _ fun hE _ => by
      simp only [R.p (hwhole (by decide)) hE, R.pc hE]; exact R.enterHandler (R.setPC _ hE) _ _⟩
  | nop | xxx opcode => exact ⟨_, _, rfl, rfl, R.idleInstr h _⟩

/-! ## Accesses and the CPU registers -/

section
variable (s : State) (c : Cpu) (n : Nat)

/-- A CPU read neither reads nor writes a CPU register or the free-value counter. -/
theorem afterRead_update (a : Word) :
    afterRead { s with cpu := c, freeCount := n } a = { afterRead s a with cpu := c, freeCount := n } := by
  have hroute : route { s with cpu := c, freeCount := n } a = route s a := rfl
  simp only [afterRead, hroute]
  cases route s a <;> rfl

theorem ppuWrite_update (a : Word) (d : Byte) :
    ppuWrite { s with cpu := c, freeCount := n } a d = { ppuWrite s a d with cpu := c, freeCount := n } := by
  have htarget : ppuWriteTarget { s with cpu := c, freeCount := n } a = ppuWriteTarget s a := rfl
  simp only [ppuWrite, htarget]
  cases ppuWriteTarget s a <;> rfl

theorem portWrite_update (k : Port) (d : Byte) :
    portWrite { s with cpu := c, freeCount := n } k d = { portWrite s k d with cpu := c, freeCount := n } := by
  cases k
  case ppuData => simp only [portWrite, ppuWrite_update]; rfl
  all_goals rfl

/-- Nor does a CPU write. -/
theorem memWrite_update (a : Word) (v : Byte) :
    memWrite { s with cpu := c, freeCount := n } a v = { memWrite s a v with cpu := c, freeCount := n } := by
  have hroute : route { s with cpu := c, freeCount := n } a = route s a := rfl
  simp only [memWrite, hroute]
  cases route s a
  case port k => exact portWrite_update s c n k v
  all_goals rfl

end

/-! ## Scratch fields (R34) -/

theorem withoutScratch_afterRead (s : State) (a : Word) :
    (afterRead s a).withoutScratch = afterRead s.withoutScratch a := by
  simp only [State.withoutScratch, afterRead_update, afterRead_cpu]

theorem withoutScratch_memWrite (s : State) (a : Word) (v : Byte) :
    (memWrite s a v).withoutScratch = memWrite s.withoutScratch a v := by
  simp only [State.withoutScratch, memWrite_update, memWrite_cpu]

/-- What wiping the scratch fields does not change is the same in states that differ in them only. -/
theorem SameButScratch.read {s t : State} {α : Type} (h : SameButScratch s t) (g : State → α)
    (hg : ∀ u : State, g u.withoutScratch = g u) : g t = g s := by
  rw [← hg, ← hg s, h]

/-- An operation that commutes with wiping the scratch fields keeps states alike. -/
theorem SameButScratch.map {s t : State} (h : SameButScratch s t) (g : State → State)
    (hg : ∀ u : State, (g u).withoutScratch = g u.withoutScratch) : SameButScratch (g s) (g t) := by
  rw [SameButScratch, hg, hg, h]

/-- No operation reads a scratch field it does not write first. -/
theorem sameButScratch_respects : Respects SameButScratch true where
  a h := h.read (·.cpu.a) fun _ => rfl
  x h := h.read (·.cpu.x) fun _ => rfl
  y h := h.read (·.cpu.y) fun _ => rfl
  sp h := h.read (·.cpu.sp) fun _ => rfl
  pc h := h.read (·.cpu.pc) fun _ => rfl
  remaining h := h.read (·.cpu.remaining) fun _ => rfl
  params h := h.read (·.params) fun _ => rfl
  flag f _ h := h.read (·.flag f) fun _ => rfl
  peek a h := h.read (Machine.peek · a) fun _ => rfl
  afterRead a h := h.map (Machine.afterRead · a) fun u => withoutScratch_afterRead u a
  memWrite a v h := h.map (Machine.memWrite · a v) fun u => withoutScratch_memWrite u a v
  setA v h := h.map (·.setA v) fun _ => rfl
  setX v h := h.map (·.setX v) fun _ => rfl
  setY v h := h.map (·.setY v) fun _ => rfl
  setSP v h := h.map (·.setSP v) fun _ => rfl
  setPC v h := h.map (·.setPC v) fun _ => rfl
  setRemaining v h := h.map (·.setRemaining v) fun _ => rfl
  setFlag f v _ h := h.map (·.setFlag f v) fun _ => rfl
  setOpcode _ h := h
  setFetched _ h := h
  setAddrAbs _ h := h
  setAddrRel _ h := h
  writeTemp h := h
  p _ h := h.read (·.cpu.p) fun _ => rfl
  setP v _ h := h.map (·.setP v) fun _ => rfl

section
variable {s t : State} (h : SameButScratch s t)
include h

theorem SameButScratch.timerTicks (n : Nat) : SameButScratch (timerTicks n s) (timerTicks n t) := by
  induction n generalizing s t with
  | zero => exact h
  | succ k ih => exact ih (h.map timerTick fun _ => rfl)

theorem SameButScratch.boundary : SameButScratch (boundary s) (boundary t) := by
  rw [Machine.boundary, Machine.boundary, sameButScratch_respects.remaining h,
    h.read (·.cpu.totalCycles) fun _ => rfl]
  exact (h.timerTicks _).map (fun u => (u.setRemaining 0).setTotalCycles _) fun _ => rfl

theorem SameButScratch.fetchPoint : SameButScratch (fetchPoint s) (fetchPoint t) := by
  rw [Machine.fetchPoint, Machine.fetchPoint, leadingTimerTicks, leadingTimerTicks,
    sameButScratch_respects.params h.boundary]
  exact h.boundary.timerTicks _

theorem SameButScratch.endGroup : SameButScratch (endGroup s) (endGroup t) := by
  have hcount : SameButScratch (countCycle (chargeFetchTick s)) (countCycle (chargeFetchTick t)) := by
    rw [chargeFetchTick_eq, chargeFetchTick_eq, sameButScratch_respects.params h, sameButScratch_respects.remaining h]
    exact (sameButScratch_respects.setRemaining _ h).map countCycle fun _ => rfl
  rw [Machine.endGroup, Machine.endGroup, trailingTimerTicks, trailingTimerTicks,
    sameButScratch_respects.params hcount]
  exact hcount.timerTicks _

end

namespace Respects

section
variable {E : State → State → Prop} {whole : Bool} (R : Respects E whole) {s t : State} (h : E s t)
include R h

theorem afterFetch (opcode : Byte) (pc : Word) : E (Machine.afterFetch opcode pc s) (Machine.afterFetch opcode pc t) :=
  R.setPC _ (R.setFlag .u true (by decide) (R.setOpcode _ h))

/-- A fetch reads the same instruction and leaves related states. -/
theorem fetch : fetchedInstr t = fetchedInstr s ∧ E (Machine.fetch s).state (Machine.fetch t).state := by
  have h1 := R.afterRead s.cpu.pc h
  have h2 := R.afterRead (s.cpu.pc + 1) h1
  have h3 := R.afterRead (s.cpu.pc + 2) h2
  simp only [fetchedInstr_eq, fetch_state_eq, R.pc h, R.peek _ h, R.peek _ h1, R.peek _ h2]
  refine ⟨trivial, R.afterFetch ?_ _ _⟩
  split
  · exact h1
  · split
    · exact h2
    · exact h3

end

end Respects

/-- Settles O16: the boundary, the fetch, the instruction and the end of the clock group each take states that differ in
scratch fields to states that do. -/
theorem scratchIsNeverRead : Obligations.ScratchIsNeverRead := by
  intro s t h
  have hreset : t.wasReset = s.wasReset := h.read (·.wasReset) fun _ => rfl
  cases hw : s.wasReset with
  | false => exact .inl ⟨step_unreset s hw, step_unreset t (hreset.trans hw)⟩
  | true =>
    obtain ⟨hinstr, hfetch⟩ := sameButScratch_respects.fetch h.fetchPoint
    obtain ⟨u, hu, hs⟩ := step_next s hw
    obtain ⟨v, hv, ht⟩ := step_next t (hreset.trans hw)
    obtain ⟨u', v', hu', hv', huv⟩ := sameButScratch_respects.exec hfetch (fetchedInstr (fetchPoint s)) (.inl rfl)
    rw [hinstr] at hv
    cases hu.symm.trans hu'
    cases hv.symm.trans hv'
    exact .inr ⟨_, _, hs, ht, huv.endGroup⟩

/-! ## The decimal flag (R26) -/

theorem setFlag_setFlag_same (p : Byte) (f : Flag) (v w : Bool) : setFlag (setFlag p f v) f w = setFlag p f w := by
  refine status_ext _ _ fun g => ?_
  simp only [getFlag_setFlag]
  split <;> rfl

theorem setFlag_comm (p : Byte) (f g : Flag) (v w : Bool) (h : f ≠ g) :
    setFlag (setFlag p f v) g w = setFlag (setFlag p g w) f v := by
  refine status_ext _ _ fun k => ?_
  simp only [getFlag_setFlag]
  split
  · rename_i hk
    rw [if_neg (hk ▸ Ne.symm h)]
  · rfl

/-- No operation but those on the whole of P reads or writes D. -/
theorem decimal_respects (d : Bool) : Respects (fun s t => t = s.setFlag .d d) false where
  a h := h ▸ rfl
  x h := h ▸ rfl
  y h := h ▸ rfl
  sp h := h ▸ rfl
  pc h := h ▸ rfl
  remaining h := h ▸ rfl
  params h := h ▸ rfl
  flag f hf h := by rw [h, State.flag_setFlag, if_neg hf]
  peek a h := h ▸ rfl
  afterRead {s _} a h := by
    rw [h]
    exact (afterRead_update s _ s.freeCount a).trans (by simp [State.setFlag, State.setP])
  memWrite {s _} a v h := by
    rw [h]
    exact (memWrite_update s _ s.freeCount a v).trans (by simp [State.setFlag, State.setP])
  setA v h := h ▸ rfl
  setX v h := h ▸ rfl
  setY v h := h ▸ rfl
  setSP v h := h ▸ rfl
  setPC v h := h ▸ rfl
  setRemaining v h := h ▸ rfl
  setFlag {s _} f v hf h := by
    rw [h, State.setFlag, State.setFlag_p, setFlag_comm _ _ _ _ _ (Ne.symm hf)]
    rfl
  setOpcode v h := h ▸ rfl
  setFetched v h := h ▸ rfl
  setAddrAbs v h := h ▸ rfl
  setAddrRel v h := h ▸ rfl
  writeTemp h := h ▸ rfl
  p h := nomatch h
  setP _ h := nomatch h

/-- PLP, RTI, CLD and SED overwrite D: they run alike whatever it holds. -/
theorem exec_setFlag_d_of_overwritten (i : Instr) (s : State) (d : Bool) (h : i.mnemonic ∈ [Mnemonic.plp, .rti, .cld, .sed]) :
    exec i (s.setFlag .d d) = exec i s := by
  have himp (f : State → State) (hi : i.operand = .imp)
      (hf : f (writeTemp (start i (s.setFlag .d d))) = f (writeTemp (start i s))) :
      (.next (plainInstr i f (s.setFlag .d d)) : Result) = .next (plainInstr i f s) := by
    rw [plainInstr_imp i f _ hi, plainInstr_imp i f _ hi, hf]
  have hd (v : Bool) : (writeTemp (start i (s.setFlag .d d))).setFlag .d v = (writeTemp (start i s)).setFlag .d v := by
    simp only [State.setFlag, writeTemp_p, start_p, State.setP_p, setFlag_setFlag_same]
    rfl
  cases i
  case plp => exact himp _ rfl (by simp only [pull_eq]; rfl)
  case rti => exact himp _ rfl (by simp only [returnFromInterrupt_eq]; rfl)
  case cld => exact himp _ rfl (hd false)
  case sed => exact himp _ rfl (hd true)
  all_goals simp [Instr.mnemonic] at h

/-- Settles O17: the instructions that overwrite D run alike, and the others respect "the same but for D". -/
theorem decimalFlagIsIgnored : Obligations.DecimalFlagIsIgnored := by
  intro i s t d h
  refine ⟨fun hi => (exec_setFlag_d_of_overwritten i s d hi).trans h, fun hi => ?_⟩
  obtain ⟨s', t', hs, ht, rfl⟩ := (decimal_respects d).exec rfl i (.inr hi)
  cases h.symm.trans hs
  exact ht

/-! ## The cartridge (20_memory.md R63, R88, R90) -/

/-- The cartridge of `t` is that of `s` but for the contents of graphics RAM. -/
def CartridgeKept (s t : State) : Prop :=
  (s.cart = none → t.cart = none) ∧
  (∀ c, s.cart = some c → ∃ d, t.cart = some d ∧ d.prg = c.prg ∧ d.prgBanks = c.prgBanks ∧
    d.chrBanks = c.chrBanks ∧ d.mapperId = c.mapperId ∧ (c.chrIsRam = false → d.chr = c.chr))

theorem CartridgeKept.of_eq {s t : State} (h : t.cart = s.cart) : CartridgeKept s t :=
  ⟨fun hn => h.trans hn, fun c hc => ⟨c, h.trans hc, rfl, rfl, rfl, rfl, fun _ => rfl⟩⟩

theorem CartridgeKept.trans {s t u : State} (h : CartridgeKept s t) (k : CartridgeKept t u) : CartridgeKept s u := by
  refine ⟨fun hn => k.1 (h.1 hn), fun c hc => ?_⟩
  obtain ⟨d, hd, hprg, hbanks, hchr, hid, hrom⟩ := h.2 c hc
  obtain ⟨e, he, hprg', hbanks', hchr', hid', hrom'⟩ := k.2 d hd
  refine ⟨e, he, hprg'.trans hprg, hbanks'.trans hbanks, hchr'.trans hchr, hid'.trans hid, fun hram => ?_⟩
  have hram' : d.chrIsRam = false := by rw [← hram, Cartridge.chrIsRam, Cartridge.chrIsRam, hchr]
  exact (hrom' hram').trans (hrom hram)

/-- A graphics write reaches the cartridge only where it has graphics RAM (R90, R96). -/
theorem cartridgeKept_ppuWrite (s : State) (a : Word) (d : Byte) : CartridgeKept s (ppuWrite s a d) := by
  rw [ppuWrite]
  cases ht : ppuWriteTarget s a with
  | chr k =>
    obtain ⟨-, hram⟩ := ppuWriteTarget_chr s a k ht
    refine ⟨fun hn => by simp [hn], fun c hc => ⟨{ c with chr := Memory.write c.chr k d }, by simp [hc], rfl, rfl, rfl, rfl,
      fun hrom => ?_⟩⟩
    rw [hram c hc] at hrom
    cases hrom
  | pattern k | nametable k | palette k => exact .of_eq rfl

theorem cartridgeKept_memWrite (s : State) (a : Word) (v : Byte) : CartridgeKept s (memWrite s a v) := by
  obtain ha | ha | ha := address_cases a
  · exact .of_eq (by rw [memWrite_ram s a v ha]; rfl)
  · rw [memWrite_port s a v ha]
    cases portOf a with
    | ppuData => exact (cartridgeKept_ppuWrite s s.gfx.v v).trans (.of_eq rfl)
    | control | mask | status | port3 | port4 | port5 | ppuAddress => exact .of_eq rfl
  · exact .of_eq (by rw [memWrite_high s a v ha])

/-- Every operation keeps the cartridge a state started with. -/
theorem cartridge_respects (r : State) : Respects (fun s t => t = s ∧ CartridgeKept r s) true where
  a h := h.1 ▸ rfl
  x h := h.1 ▸ rfl
  y h := h.1 ▸ rfl
  sp h := h.1 ▸ rfl
  pc h := h.1 ▸ rfl
  remaining h := h.1 ▸ rfl
  params h := h.1 ▸ rfl
  flag _ _ h := h.1 ▸ rfl
  peek _ h := h.1 ▸ rfl
  afterRead {s _} a h := ⟨h.1 ▸ rfl, h.2.trans (.of_eq (afterRead_cart s a))⟩
  memWrite {s _} a v h := ⟨h.1 ▸ rfl, h.2.trans (cartridgeKept_memWrite s a v)⟩
  setA _ h := ⟨h.1 ▸ rfl, h.2⟩
  setX _ h := ⟨h.1 ▸ rfl, h.2⟩
  setY _ h := ⟨h.1 ▸ rfl, h.2⟩
  setSP _ h := ⟨h.1 ▸ rfl, h.2⟩
  setPC _ h := ⟨h.1 ▸ rfl, h.2⟩
  setRemaining _ h := ⟨h.1 ▸ rfl, h.2⟩
  setFlag _ _ _ h := ⟨h.1 ▸ rfl, h.2⟩
  setOpcode _ h := ⟨h.1 ▸ rfl, h.2⟩
  setFetched _ h := ⟨h.1 ▸ rfl, h.2⟩
  setAddrAbs _ h := ⟨h.1 ▸ rfl, h.2⟩
  setAddrRel _ h := ⟨h.1 ▸ rfl, h.2⟩
  writeTemp h := ⟨h.1 ▸ rfl, h.2⟩
  p _ h := h.1 ▸ rfl
  setP _ _ h := ⟨h.1 ▸ rfl, h.2⟩

theorem cartridgeKept_exec (i : Instr) (s t : State) (h : exec i s = .next t) : CartridgeKept s t := by
  obtain ⟨s', -, hs, -, -, hkept⟩ := (cartridge_respects s).exec ⟨rfl, .of_eq rfl⟩ i (.inl rfl)
  cases h.symm.trans hs
  exact hkept

theorem cartridgeKept_cpuTick (s t : State) (h : cpuTick s = .next t) : CartridgeKept s t := by
  obtain ⟨-, rfl⟩ | ⟨u, hu, rfl⟩ := of_cpuTick_eq_next h
  · exact .of_eq rfl
  · obtain ⟨-, -, -, -, -, -, -, hcart, -⟩ := fetch_frame s
    rw [chargeFetchTick_eq]
    exact (CartridgeKept.of_eq hcart).trans ((cartridgeKept_exec _ _ u hu).trans (.of_eq rfl))

/-- Settles O15: timer ticks and CPU ticks keep the cartridge the step started with. -/
theorem stepKeepsCartridge : Obligations.StepKeepsCartridge := by
  intro s t h
  exact step_keeps (P := CartridgeKept s) (fun u hu => hu.trans (.of_eq rfl))
    (fun u v hu hv => hu.trans (cartridgeKept_cpuTick u v hv)) s t (.of_eq rfl) h

end Sys2Proof.Machine

/-! PROOFS. Effective addresses and operands (spec 40_execution_and_addressing.md sections 1 and 2): each mode in numbers,
and the one access of an operand. -/

namespace Sys2Proof.Machine

/-! ## Sums of the addressing modes -/

theorem zext16_add_toNat (z x : Byte) : (zext16 (z + x)).toNat = (z.toNat + x.toNat) % 256 := by
  rw [zext16_toNat, BitVec.toNat_add]

/-- An indexed sum wraps modulo 65536, and its signal is a change of page (R154, R155, R158). -/
theorem indexedAddress_toNat (w : Word) (x : Byte) :
    (indexedAddress w x).1.toNat = (w.toNat + x.toNat) % 65536 ∧
    ((indexedAddress w x).2 = true ↔ (indexedAddress w x).1.toNat / 256 ≠ w.toNat / 256) := by
  refine ⟨?_, ?_⟩
  · rw [indexedAddress, BitVec.toNat_add, zext16_toNat]
  · simp only [indexedAddress, bne_iff_ne, ne_eq, hiByte_eq_iff]

/-- A zero-page pointer in numbers: both its bytes from page 0 (R69). -/
theorem zeroPagePointer_eq (s : State) (p : Byte) (n : Nat) (h : p.toNat = n % 256) :
    (w16 (peek s (zext16 p)) (peek s (zext16 (p + 1)))).toNat = zeroPagePointer s n := by
  have hlow : zext16 p = BitVec.ofNat 16 (n % 256) := BitVec.eq_of_toNat_eq (by
    rw [zext16_toNat, BitVec.toNat_ofNat]; omega)
  have hhigh : zext16 (p + 1) = BitVec.ofNat 16 ((n + 1) % 256) := BitVec.eq_of_toNat_eq (by
    rw [zext16_add_toNat, BitVec.toNat_ofNat, h, show (1 : Byte).toNat = 1 from rfl]; omega)
  rw [w16_toNat, zeroPagePointer, hlow, hhigh, Nat.add_comm]

/-- The page of an address is its high byte over zeros. -/
theorem and_page_mask (w : Word) : w &&& 0xFF00 = w16 0 (hiByte w) := by
  have hmask : (0xFF00 : Word) = BitVec.allOnes 8 ++ 0#8 := rfl
  conv_lhs => rw [← w16_loByte_hiByte w, w16, hmask, BitVec.and_append, BitVec.and_allOnes, BitVec.and_zero]
  rfl

/-- The high byte of an indirect target comes from the start of the pointer's page when the pointer ends it (R156). -/
theorem indirectHighAddress_eq (w : Word) :
    indirectHighAddress w = if w.toNat % 256 = 255 then BitVec.ofNat 16 (w.toNat - 255) else w + 1 := by
  have hlt := w.isLt
  have hend : loByte w = 0xFF ↔ w.toNat % 256 = 255 := by
    rw [← BitVec.toNat_inj, loByte_toNat]; rfl
  simp only [indirectHighAddress, hend]
  split
  · refine BitVec.eq_of_toNat_eq ?_
    rw [and_page_mask, w16_toNat, hiByte_toNat, BitVec.toNat_ofNat, show (0 : Byte).toNat = 0 from rfl]
    omega
  · rfl

/-! ## Effective addresses -/

/-- A read commutes with the start of an instruction. -/
theorem afterRead_start (i : Instr) (s : State) (a : Word) : afterRead (start i s) a = start i (afterRead s a) := by
  simp only [start, State.setRemaining, afterRead_cpu_update, afterRead_cpu, afterRead_params]

/-- The target of an indirect pointer: its two reads, in order (R156). -/
theorem resolved_ind (i : Instr) (w : Word) (s : State) (h : i.operand = .ind w) :
    resolved i s =
      ((start i (afterRead (afterRead s w) (indirectHighAddress w))).setAddrAbs
        (w16 (peek s w) (peek (afterRead s w) (indirectHighAddress w))), false) := by
  rw [resolved, h, resolve, memRead_fst, memRead_snd, memRead_fst, memRead_snd, afterRead_start, afterRead_start,
    peek_start, peek_start]

/-- Settles O19, mode by mode. -/
theorem effectiveAddresses : Obligations.EffectiveAddresses := by
  intro i s ea crosses
  have hres : resolved i s = resolve i.operand (start i s) := rfl
  cases ho : i.operand with
  | imp | rel off => simp only [crosses, hres, ho, resolve]
  | imm n =>
    have hpc := s.cpu.pc.isLt
    have hlast : (s.cpu.pc - 1).toNat = (s.cpu.pc.toNat + 65535) % 65536 := by bv_omega
    exact ⟨by simpa [ea, effectiveAddress, hres, ho, resolve] using hlast, by simp [crosses, hres, ho, resolve]⟩
  | zp0 z =>
    simp only [ea, crosses, effectiveAddress, hres, ho, resolve, State.setAddrAbs_addrAbs, zext16_toNat, and_self]
  | zpx z | zpy z =>
    simp only [ea, crosses, effectiveAddress, hres, ho, resolve, State.setAddrAbs_addrAbs, zext16_add_toNat, start_x,
      start_y, and_self]
  | abs w => simp only [ea, crosses, effectiveAddress, hres, ho, resolve, State.setAddrAbs_addrAbs, and_self]
  | abx w =>
    simp only [ea, crosses, effectiveAddress, hres, ho, resolve, State.setAddrAbs_addrAbs, start_x]
    exact indexedAddress_toNat w s.cpu.x
  | aby w =>
    simp only [ea, crosses, effectiveAddress, hres, ho, resolve, State.setAddrAbs_addrAbs, start_y]
    exact indexedAddress_toNat w s.cpu.y
  | ind w =>
    simp only [ea, crosses, effectiveAddress, resolved_ind i w s ho, State.setAddrAbs_addrAbs, w16_toNat,
      indirectHighAddress_eq, and_true]
    exact Nat.add_comm _ _
  | izx z =>
    have hp : (z + s.cpu.x).toNat = (z.toNat + s.cpu.x.toNat) % 256 := BitVec.toNat_add z s.cpu.x
    simp only [ea, crosses, effectiveAddress, hres, ho, resolve, readZeroPage16_eq, State.setAddrAbs_addrAbs, start_x,
      peek_start, and_true]
    exact zeroPagePointer_eq s _ _ hp
  | izy z =>
    have hz := z.isLt
    simp only [ea, crosses, effectiveAddress, hres, ho, resolve, readZeroPage16_eq, State.setAddrAbs_addrAbs, start_y,
      peek_start, ← zeroPagePointer_eq s z z.toNat (Nat.mod_eq_of_lt hz).symm]
    exact indexedAddress_toNat _ s.cpu.y

/-! ## Operands -/

/-- Resolving a mode other than IND changes CPU registers only. -/
theorem resolved_eq_update (i : Instr) (s : State) (h : i.operand.mode ≠ .ind) :
    (resolved i s).1 = { s with cpu := (resolved i s).1.cpu } := by
  have hg : (resolve i.operand (start i s)).1.gfx = s.gfx := resolved_gfx i s h
  rw [resolved, resolve_eq, hg]
  rfl

/-- The operand of an addressed mode is one read at the effective address (R145, D45). -/
theorem readOperand_of_addressed (o : Operand) (s : State) (h : o.mode ∉ [.imp, .imm]) :
    readOperand o s = (peek s s.cpu.addrAbs, (afterRead s s.cpu.addrAbs).setFetched (peek s s.cpu.addrAbs)) := by
  cases o with
  | imp | imm n => simp [Operand.mode] at h
  | _ => rfl

/-- Settles O20: the implied and immediate operands are no access, every other one is the read at the effective address,
before which only CPU registers changed. -/
theorem operandValues : Obligations.OperandValues := by
  intro i s
  refine ⟨resolved_gfx i s, fun ho => ?imp, fun n ho => ?imm, fun hm => ?addressed⟩
  case imp =>
    rw [operandValue, loaded, resolved_imp i s ho, ho]
    exact ⟨rfl, rfl⟩
  case imm =>
    rw [operandValue, loaded, resolved, ho]
    exact ⟨rfl, rfl⟩
  case addressed =>
    have hind : i.operand.mode ≠ .ind := fun he => hm (by simp [he])
    have himm : i.operand.mode ∉ [.imp, .imm] := fun he => hm (by simp at he ⊢; tauto)
    have hpeek := (resolved_memoryKept i s hind).1 (effectiveAddress i s)
    rw [operandValue, loaded, readOperand_of_addressed _ _ himm]
    refine ⟨hpeek, ?_⟩
    rw [State.setFetched_gfx, ← effectiveAddress, resolved_eq_update i s hind, afterRead_cpu_update]

end Sys2Proof.Machine

/-! PROOFS. The bus and the graphics ports (spec 20_memory.md sections 1, 2 and 6, 60_exceptions.md section 6): open bus,
which accesses have a side effect, and STATUS, PPU-ADDRESS and PPU-DATA. -/

namespace Sys2Proof.Machine

/-! ## Open bus (R66) -/

theorem route_openBus (s : State) (a : Word) (h : 0x4000 ≤ a.toNat) (h' : s.cart = none ∨ a.toNat ≤ 0x7FFF) :
    route s a = .openBus := by
  have hin : routeInside a = .openBus := by rw [routeInside, if_neg (by omega), if_neg (by omega)]
  obtain hc | ha := h'
  · simp only [route, hc, Option.bind_none, hin]
  · rw [route_low s a (by omega), hin]

/-- Settles O22: the router's last stage answers. -/
theorem openBus : Obligations.OpenBus := by
  intro s a v h h'
  have hr := route_openBus s a h h'
  exact ⟨by simp only [memRead, peek, afterRead, hr], memWrite_high s a v h⟩

/-! ## The ports by their numbers (R65, R420) -/

section
variable (a : Word)

theorem portOf_status (h : a.toNat % 8 = 2) : portOf a = .status := by simp only [portOf, h]
theorem portOf_ppuAddress (h : a.toNat % 8 = 6) : portOf a = .ppuAddress := by simp only [portOf, h]

/-- The ports that are silent when read: every one but STATUS and PPU-DATA (R426). -/
theorem portOf_of_silent (h : a.toNat % 8 ∈ [0, 1, 3, 4, 5, 6]) : portOf a ≠ .status ∧ portOf a ≠ .ppuData := by
  simp only [List.mem_cons, List.not_mem_nil, or_false] at h
  obtain h | h | h | h | h | h := h <;> simp [portOf, h]

/-- The ports whose writes are ignored (R426). -/
theorem portOf_of_ignored (h : a.toNat % 8 ∈ [2, 3, 4, 5]) :
    portOf a = .status ∨ portOf a = .port3 ∨ portOf a = .port4 ∨ portOf a = .port5 := by
  simp only [List.mem_cons, List.not_mem_nil, or_false] at h
  obtain h | h | h | h := h <;> simp [portOf, h]

end

section
variable (s : State) (a : Word) (h : IsPortAddress a)
include h

/-- A read of a port gives the port's value (R65). -/
theorem peek_port : peek s a = portValue s (portOf a) := by simp only [peek, route_port s a h]

/-- A silent port reads 0 and keeps the register file (R426). -/
theorem memRead_of_silent (hs : a.toNat % 8 ∈ [0, 1, 3, 4, 5, 6]) : memRead s a = (0x00, s) := by
  obtain ⟨h2, h7⟩ := portOf_of_silent a hs
  rw [memRead, peek_port s a h, afterRead_port s a h]
  cases hp : portOf a
  case status => exact absurd hp h2
  case ppuData => exact absurd hp h7
  all_goals rfl

/-- A write to an ignoring port changes nothing (R426). -/
theorem memWrite_of_ignored (v : Byte) (hi : a.toNat % 8 ∈ [2, 3, 4, 5]) : memWrite s a v = s := by
  rw [memWrite_port s a v h]
  obtain hp | hp | hp | hp := portOf_of_ignored a hi <;> rw [hp, portWrite]

end

/-- Settles O24: outside the ports no access has a side effect, and the silent ports keep the register file. -/
theorem sideEffectsOfAccesses : Obligations.SideEffectsOfAccesses := by
  intro s a
  refine ⟨fun hn => ?_, fun v ha => memWrite_high s a v (by omega), memRead_of_silent s a,
    fun v hp hi => memWrite_of_ignored s a hp v hi⟩
  by_cases hp : IsPortAddress a
  · have hs : a.toNat % 8 ∈ [0, 1, 3, 4, 5, 6] := by
      simp only [hp, true_and] at hn
      simp only [List.mem_cons, List.not_mem_nil, or_false]
      omega
    exact congrArg Prod.snd (memRead_of_silent s a hp hs)
  · exact afterRead_of_not_port s a hp

/-! ## STATUS (R422) -/

/-- Settles O53: the value and the effect of the port, VB being bit 7. -/
theorem statusPort : Obligations.StatusPort := by
  intro s a h h2
  rw [memRead, peek_port s a h, afterRead_port s a h, portOf_status a h2]
  exact ⟨rfl, rfl⟩

/-! ## PPU-ADDRESS (R423) -/

theorem zext16_eq_w16 (d : Byte) : zext16 d = w16 d 0#8 := by
  refine BitVec.eq_of_toNat_eq ?_
  rw [zext16_toNat, w16_toNat]
  simp

theorem zext16_shiftLeft (d : Byte) : zext16 d <<< 8 = w16 0#8 d := by
  have := d.isLt
  refine BitVec.eq_of_toNat_eq ?_
  rw [BitVec.toNat_shiftLeft, zext16_toNat, w16_toNat, Nat.shiftLeft_eq, BitVec.toNat_ofNat]
  omega

/-- The high byte of an address replaced. -/
theorem w16_high_eq (v : Word) (d : Byte) : w16 (loByte v) d = (v &&& (0x00FF : Word)) ||| (zext16 d <<< 8) := by
  have hmask : (0x00FF : Word) = 0#8 ++ BitVec.allOnes 8 := rfl
  conv_rhs => rw [← w16_loByte_hiByte v, hmask, zext16_shiftLeft, w16, w16, BitVec.and_append, BitVec.or_append,
    BitVec.and_zero, BitVec.and_allOnes, BitVec.zero_or, BitVec.or_zero]
  rfl

/-- The low byte of an address replaced. -/
theorem w16_low_eq (v : Word) (d : Byte) : w16 d (hiByte v) = (v &&& 0xFF00) ||| zext16 d := by
  conv_rhs => rw [and_page_mask, zext16_eq_w16, w16, w16, BitVec.or_append, BitVec.or_zero]
  rw [w16, show (0 : Byte) = 0#8 from rfl, BitVec.zero_or]

theorem memWrite_ppuAddress (s : State) (a : Word) (d : Byte) (h : IsPortAddress a) (h6 : a.toNat % 8 = 6) :
    memWrite s a d = s.setGfx (writePpuAddress s.gfx d) := by
  rw [memWrite_port s a d h, portOf_ppuAddress a h6, portWrite]

/-- Settles O54: one write by the latch, and the two writes with the latch at 0. -/
theorem addressPort : Obligations.AddressPort := by
  intro s a b d e ha ha6 hb hb6
  refine ⟨fun hl => ?_, fun hl => ?_⟩
  · have hfirst : memWrite s a d = s.setGfx { s.gfx with v := w16 (loByte s.gfx.v) d, latch := true } := by
      rw [memWrite_ppuAddress s a d ha ha6, writePpuAddress, hl]
      rfl
    refine ⟨by rw [hfirst, w16_high_eq]; rfl, ?_⟩
    rw [hfirst, memWrite_ppuAddress _ b e hb hb6]
    simp only [writePpuAddress, State.setGfx_gfx, hiByte_w16, if_true, Bool.not_true, ← hl]
    rfl
  · rw [memWrite_ppuAddress s a d ha ha6, writePpuAddress, hl, ← w16_low_eq]
    rfl

/-! ## PPU-DATA (R424, R425) -/

/-- A graphics write leaves the registers of the register file (R96). -/
theorem ppuWrite_gfx_registers (s : State) (a : Word) (d : Byte) :
    (ppuWrite s a d).gfx.buffer = s.gfx.buffer ∧ (ppuWrite s a d).gfx.status = s.gfx.status ∧
    (ppuWrite s a d).gfx.latch = s.gfx.latch ∧ (ppuWrite s a d).gfx.ctrl = s.gfx.ctrl ∧
    (ppuWrite s a d).gfx.mask = s.gfx.mask := by
  rw [ppuWrite]
  cases ppuWriteTarget s a <;> exact ⟨rfl, rfl, rfl, rfl, rfl⟩

theorem graphicsAddress_toNat (a : Word) : (graphicsAddress a).toNat = a.toNat % 16384 :=
  (BitVec.toNat_and a 0x3FFF).trans (Nat.and_two_pow_sub_one_eq_mod a.toNat 14)

/-- A graphics write reaches no byte of the pattern memory but the one of its own address (R94, R96, R98). -/
theorem read_pattern_ppuWrite (s : State) (a : Word) (d : Byte) (k : Nat) (hk : k ≠ a.toNat % 16384) :
    Memory.read (ppuWrite s a d).gfx.pattern k = Memory.read s.gfx.pattern k := by
  rw [ppuWrite]
  cases ht : ppuWriteTarget s a with
  | pattern j =>
    have hint := (ppuWriteTarget_internal s a (by simp [ht])).symm.trans ht
    have hj : j = a.toNat % 16384 := by
      simp only [internalTarget, graphicsAddress_toNat] at hint
      split at hint
      · exact (GfxTarget.pattern.inj hint).symm
      · split at hint <;> cases hint
    exact Memory.read_write_other _ _ _ _ (hj ▸ hk)
  | chr j | nametable j | palette j => rfl

/-- Settles O55: the port's read and write, the latter a graphics write and the advance of v. -/
theorem dataPort : Obligations.DataPort := by
  intro s a d h h7
  rw [memRead, peek_port s a h, afterRead_port s a h, memWrite_port s a d h, portOf_ppuData a h7]
  obtain ⟨hcpu, hram, htimer, hparams, -⟩ := ppuWrite_frame s s.gfx.v d
  obtain ⟨hbuffer, hstatus, hlatch, hctrl, hmask⟩ := ppuWrite_gfx_registers s s.gfx.v d
  obtain ⟨hnone, hsome⟩ := cartridgeKept_ppuWrite s s.gfx.v d
  refine ⟨rfl, rfl, ?_, fun c => rfl, portWrite_ppuData_v s d, hbuffer, hstatus, hlatch, hctrl, hmask, hcpu, hram,
    htimer, hparams, fun k hk => read_pattern_ppuWrite s s.gfx.v d k hk, hnone, fun c hc => ?_⟩
  · rw [portWrite, ppuWrite_gfx_v]
  · obtain ⟨e, he, hprg, hbanks, hchr, hid, hrom⟩ := hsome c hc
    exact ⟨e, he, hprg, hbanks, hchr, hid, fun hne => hrom (by simpa [Cartridge.chrIsRam] using hne)⟩

end Sys2Proof.Machine

/-! PROOFS. The graphics address space (spec 20_memory.md sections 6 and 7): the place of every graphics address in numbers,
and read after write through every alias. -/

namespace Sys2Proof.Machine

/-! ## The place of a reduced address, in numbers (R94, R98-R100) -/

/-- The internal memory and key of a reduced graphics address. -/
def internalPlace (p : Params) (n : Nat) : GfxTarget :=
  if n ≤ 0x1FFF then .pattern n
  else if n ≤ 0x3EFF then .nametable (1024 * nameTable p n + n % 1024)
  else .palette (paletteEntry n)

section
variable (p : Params) (n : Nat)

theorem internalPlace_low (h : n < 8192) : internalPlace p n = .pattern n := if_pos (by omega)

theorem internalPlace_names (h : 8192 ≤ n) (h' : n < 16128) :
    internalPlace p n = .nametable (1024 * nameTable p n + n % 1024) := by
  rw [internalPlace, if_neg (by omega), if_pos (by omega)]

theorem internalPlace_palette (h : 16128 ≤ n) : internalPlace p n = .palette (paletteEntry n) := by
  rw [internalPlace, if_neg (by omega), if_neg (by omega)]

end

theorem nametableKey_eq (p : Params) (a : Word) : nametableKey p a = 1024 * nameTable p a.toNat + a.toNat % 1024 := by
  have hbit : a.getLsbD 10 = decide (a.toNat / 1024 % 2 = 1) := by
    rw [BitVec.getLsbD, Nat.testBit_eq_decide_div_mod_eq]
  have hmod : a.toNat / 1024 % 2 = 0 ∨ a.toNat / 1024 % 2 = 1 := by omega
  simp only [nametableKey, nametableSelect, nameTable, hbit]
  by_cases hf : a.toNat ∈ p.nametableFlips <;> obtain h | h := hmod <;> simp [hf, h]

theorem paletteIndex_eq (a : Word) : paletteIndex a = paletteEntry a.toNat := by
  simp only [paletteIndex, paletteEntry, List.mem_cons, List.not_mem_nil, or_false]

theorem internalTarget_graphicsAddress (p : Params) (a : Word) :
    internalTarget p (graphicsAddress a) = internalPlace p (a.toNat % 16384) := by
  simp only [internalTarget, internalPlace, nametableKey_eq, paletteIndex_eq, graphicsAddress_toNat]

section
variable (s : State) (a : Word)

/-- With no cartridge every graphics access is internal (log 3). -/
theorem targets_of_no_cartridge (h : s.cart = none) :
    ppuReadTarget s a = internalPlace s.params (a.toNat % 16384) ∧
    ppuWriteTarget s a = internalPlace s.params (a.toNat % 16384) := by
  simp only [ppuReadTarget, ppuWriteTarget, h, Option.bind_none, internalTarget_graphicsAddress, and_self]

/-- From 0x2000 on every graphics access is internal (R89, R90, R95, R96). -/
theorem targets_of_high (h : 8192 ≤ a.toNat % 16384) :
    ppuReadTarget s a = internalPlace s.params (a.toNat % 16384) ∧
    ppuWriteTarget s a = internalPlace s.params (a.toNat % 16384) := by
  have hn : ¬ (graphicsAddress a).toNat ≤ 0x1FFF := by rw [graphicsAddress_toNat]; omega
  have hread : nromPpuReadMap (graphicsAddress a) = none := if_neg hn
  have hwrite (c : Cartridge) : nromPpuWriteMap c (graphicsAddress a) = none := by simp [nromPpuWriteMap, hn]
  rw [ppuReadTarget, ppuWriteTarget, hread]
  cases s.cart <;> simp only [Option.bind_none, Option.bind_some, hwrite, internalTarget_graphicsAddress, and_self]

variable (c : Cartridge) (hc : s.cart = some c) (h : a.toNat % 16384 < 8192)
include hc h

/-- Below 0x2000 a read goes to the cartridge (R89). -/
theorem ppuReadTarget_of_low : ppuReadTarget s a = .chr (a.toNat % 16384) := by
  have hread : nromPpuReadMap (graphicsAddress a) = some (a.toNat % 16384) := by
    rw [nromPpuReadMap, graphicsAddress_toNat, if_pos (by omega)]
  simp only [ppuReadTarget, hc, hread]

/-- Below 0x2000 a write goes to the cartridge's graphics RAM, or past its graphics ROM to the pattern tables (R90,
R96). -/
theorem ppuWriteTarget_of_low :
    ppuWriteTarget s a =
      if c.chrBanks = 0 then .chr (a.toNat % 16384) else .pattern (a.toNat % 16384) := by
  have hle : a.toNat % 16384 ≤ 0x1FFF := by omega
  simp only [ppuWriteTarget, hc, Option.bind_some, nromPpuWriteMap, Cartridge.chrIsRam, graphicsAddress_toNat, hle,
    decide_true, Bool.true_and, beq_iff_eq, internalTarget_graphicsAddress, internalPlace_low _ _ h]
  by_cases hb : c.chrBanks = 0 <;> simp only [hb, if_true, if_false]

end

/-- Settles O52: each range's target, and the access there. -/
theorem graphicsAddresses : Obligations.GraphicsAddresses := by
  intro s a d n name
  refine ⟨fun hn => ⟨fun c hc => ?cartridge, fun hc => ?none⟩, fun hn hn' => ?names, fun hn => ?palette⟩
  case cartridge =>
    have hread := ppuReadTarget_of_low s a c hc hn
    have hwrite := ppuWriteTarget_of_low s a c hc hn
    refine ⟨by simp only [ppuRead, hread, gfxByte, hc, n], fun hb => ?_, fun hb => ?_⟩
    · rw [ppuWrite, hwrite, if_pos hb]
      simp only [hc, Option.map_some, n]
    · rw [ppuWrite, hwrite, if_neg hb]
  case none =>
    obtain ⟨hread, hwrite⟩ := targets_of_no_cartridge s a hc
    rw [ppuRead, ppuWrite, hread, hwrite, internalPlace_low _ _ hn]
    exact ⟨rfl, rfl⟩
  case names =>
    obtain ⟨hread, hwrite⟩ := targets_of_high s a hn
    rw [ppuRead, ppuWrite, hread, hwrite, internalPlace_names _ _ hn hn']
    refine ⟨rfl, rfl, fun hflips => ?_⟩
    simp only [name, nameTable, hflips, List.not_mem_nil, if_false]
    omega
  case palette =>
    obtain ⟨hread, hwrite⟩ := targets_of_high s a (by omega)
    rw [ppuRead, ppuWrite, hread, hwrite, internalPlace_palette _ _ hn]
    exact ⟨rfl, rfl⟩

/-! ## Read after write -/

/-- Two graphics addresses have one internal place exactly when they are one graphics byte. -/
theorem internalPlace_eq_iff (p : Params) (a b : Word) :
    internalPlace p (b.toNat % 16384) = internalPlace p (a.toNat % 16384) ↔ SameGraphicsByte p a b := by
  simp only [SameGraphicsByte]
  generalize a.toNat % 16384 = m
  generalize b.toNat % 16384 = n
  obtain ha | ⟨ha, ha'⟩ | ha : m < 8192 ∨ (8192 ≤ m ∧ m < 16128) ∨ 16128 ≤ m := by omega
  · rw [internalPlace_low p m ha]
    obtain hb | ⟨hb, hb'⟩ | hb : n < 8192 ∨ (8192 ≤ n ∧ n < 16128) ∨ 16128 ≤ n := by omega
    · rw [internalPlace_low p n hb, GfxTarget.pattern.injEq]; omega
    · simp only [internalPlace_names p n hb hb', reduceCtorEq, false_iff]; omega
    · simp only [internalPlace_palette p n hb, reduceCtorEq, false_iff]; omega
  · rw [internalPlace_names p m ha ha']
    obtain hb | ⟨hb, hb'⟩ | hb : n < 8192 ∨ (8192 ≤ n ∧ n < 16128) ∨ 16128 ≤ n := by omega
    · simp only [internalPlace_low p n hb, reduceCtorEq, false_iff]; omega
    · rw [internalPlace_names p n hb hb', GfxTarget.nametable.injEq]; omega
    · simp only [internalPlace_palette p n hb, reduceCtorEq, false_iff]; omega
  · rw [internalPlace_palette p m ha]
    obtain hb | ⟨hb, hb'⟩ | hb : n < 8192 ∨ (8192 ≤ n ∧ n < 16128) ∨ 16128 ≤ n := by omega
    · simp only [internalPlace_low p n hb, reduceCtorEq, false_iff]; omega
    · simp only [internalPlace_names p n hb hb', reduceCtorEq, false_iff]; omega
    · rw [internalPlace_palette p n hb, GfxTarget.palette.injEq]; omega

/-- The place a cartridge takes over from the internal pattern tables for reads (R89, R95). -/
def GfxTarget.throughCartridge : GfxTarget → GfxTarget
  | .pattern key => .chr key
  | t => t

/-- No internal place is the cartridge's, so taking over the pattern tables confuses no two of them. -/
theorem throughCartridge_internalPlace_inj (p : Params) (m n : Nat) :
    (internalPlace p n).throughCartridge = (internalPlace p m).throughCartridge ↔
      internalPlace p n = internalPlace p m := by
  have hno (k j : Nat) : internalPlace p k ≠ .chr j := by
    rw [internalPlace]
    split
    · exact GfxTarget.noConfusion
    · split <;> exact GfxTarget.noConfusion
  have hn := hno n
  have hm := hno m
  generalize internalPlace p n = x at hn
  generalize internalPlace p m = y at hm
  cases x <;> cases y <;> simp_all [GfxTarget.throughCartridge]

/-- Where a read goes: to the internal place, a cartridge taking over the pattern tables (R95). -/
theorem ppuReadTarget_eq (s : State) (a : Word) :
    ppuReadTarget s a =
      if s.cart.isSome then (internalPlace s.params (a.toNat % 16384)).throughCartridge
      else internalPlace s.params (a.toNat % 16384) := by
  cases hc : s.cart with
  | none => exact (targets_of_no_cartridge s a hc).1
  | some c =>
    rw [Option.isSome_some, if_pos rfl]
    by_cases h : a.toNat % 16384 < 8192
    · rw [ppuReadTarget_of_low s a c hc h, internalPlace_low _ _ h]
      rfl
    · rw [(targets_of_high s a (by omega)).1, internalPlace, if_neg (by omega)]
      split <;> rfl

/-- Reads of two addresses go to one place exactly when they are one graphics byte. -/
theorem ppuReadTarget_eq_iff (s : State) (a b : Word) :
    ppuReadTarget s b = ppuReadTarget s a ↔ SameGraphicsByte s.params a b := by
  rw [ppuReadTarget_eq, ppuReadTarget_eq, ← internalPlace_eq_iff]
  split
  · exact throughCartridge_internalPlace_inj _ _ _
  · rfl

/-- Outside graphics ROM a write goes where a read goes (R95, R96). -/
theorem ppuWriteTarget_eq_ppuReadTarget (s : State) (a : Word) (h : ¬ InGraphicsRom s a) :
    ppuWriteTarget s a = ppuReadTarget s a := by
  cases hc : s.cart with
  | none =>
    obtain ⟨hread, hwrite⟩ := targets_of_no_cartridge s a hc
    rw [hread, hwrite]
  | some c =>
    by_cases hn : a.toNat % 16384 < 8192
    · have hb : c.chrBanks = 0 := by
        by_contra hne
        exact h ⟨hn, c, hc, hne⟩
      rw [ppuReadTarget_of_low s a c hc hn, ppuWriteTarget_of_low s a c hc hn, if_pos hb]
    · obtain ⟨hread, hwrite⟩ := targets_of_high s a (by omega)
      rw [hread, hwrite]

/-- A write past graphics ROM goes where no read goes (R89, R90). -/
theorem ppuReadTarget_ne_of_inGraphicsRom (s : State) (a b : Word) (h : InGraphicsRom s a) :
    ppuReadTarget s b ≠ ppuWriteTarget s a := by
  obtain ⟨hn, c, hc, hb⟩ := h
  rw [ppuWriteTarget_of_low s a c hc hn, if_neg hb, ppuReadTarget_eq, hc, Option.isSome_some, if_pos rfl]
  cases internalPlace s.params (b.toNat % 16384) <;> exact GfxTarget.noConfusion

/-- A write to the cartridge finds one (R96). -/
theorem exists_cart_of_ppuWriteTarget_chr (s : State) (a : Word) (k : Nat) (h : ppuWriteTarget s a = .chr k) :
    ∃ c, s.cart = some c := by
  cases hc : s.cart with
  | some c => exact ⟨c, rfl⟩
  | none =>
    rw [(targets_of_no_cartridge s a hc).2, internalPlace] at h
    split at h
    · cases h
    · split at h <;> cases h

/-- After a graphics write its target holds the byte and every other place what it held (R94, R96). -/
theorem gfxByte_ppuWrite (s : State) (a : Word) (d : Byte) (h : s.Inv) (t : GfxTarget) :
    gfxByte (ppuWrite s a d) t = if t = ppuWriteTarget s a then d else gfxByte s t := by
  obtain ⟨-, -, hcart, hgfx, -⟩ := h
  rw [ppuWrite]
  cases ht : ppuWriteTarget s a with
  | chr k =>
    obtain ⟨c, hc⟩ := exists_cart_of_ppuWriteTarget_chr s a k ht
    have hform := (hcart c hc).chrForm
    cases t <;> simp [gfxByte, hc, Memory.read_write _ _ _ _ hform]
  | pattern k =>
    cases t <;> simp [gfxByte, Memory.read_write _ _ _ _ hgfx.patternForm]
  | nametable k =>
    cases t <;> simp [gfxByte, Memory.read_write _ _ _ _ hgfx.nametableForm]
  | palette k =>
    cases t <;> simp [gfxByte, Memory.read_write _ _ _ _ hgfx.paletteForm]

/-- A write does not move the place of any address. -/
theorem ppuReadTarget_ppuWrite (s : State) (a b : Word) (d : Byte) :
    ppuReadTarget (ppuWrite s a d) b = ppuReadTarget s b := by
  obtain ⟨hnone, hsome⟩ := cartridgeKept_ppuWrite s a d
  obtain ⟨-, -, -, hparams, -⟩ := ppuWrite_frame s a d
  rw [ppuReadTarget_eq, ppuReadTarget_eq, hparams]
  cases hc : s.cart with
  | none => rw [hnone hc]
  | some c =>
    obtain ⟨e, he, -⟩ := hsome c hc
    rw [he, Option.isSome_some, Option.isSome_some]

/-- Settles O51: the byte read is the one written exactly when the read goes where the write went. -/
theorem graphicsReadAfterWrite : Obligations.GraphicsReadAfterWrite := by
  intro s a b d h
  rw [ppuRead, ppuReadTarget_ppuWrite, gfxByte_ppuWrite s a d h, ← ppuReadTarget_eq_iff]
  refine ⟨fun ⟨hsame, hrom⟩ => if_pos ?_, fun hother => if_neg ?_⟩
  · rw [hsame, ppuWriteTarget_eq_ppuReadTarget s a hrom]
  · by_cases hrom : InGraphicsRom s a
    · exact ppuReadTarget_ne_of_inGraphicsRom s a b hrom
    · rw [ppuWriteTarget_eq_ppuReadTarget s a hrom]
      exact hother.resolve_right hrom

end Sys2Proof.Machine

/-! PROOFS. Loading a cartridge (spec 20_memory.md section 5): which images load, why another does not, and where the bytes
of a loaded image stand. -/

namespace Sys2Proof.Machine

/-! ## Header fields in numbers -/

/-- The mapper identifier is 0 when the two nibbles that make it are (R81). -/
theorem imageMapperId_eq_zero_iff (image : List Byte) :
    imageMapperId image = 0 ↔ (headerByte image 6).toNat / 16 = 0 ∧ (headerByte image 7).toNat / 16 = 0 := by
  have hhigh : ∀ b : Byte, b &&& 0xF0 = 0#8 ↔ b.toNat / 16 = 0 := by decide
  have hlow : ∀ b : Byte, b >>> 4 = 0#8 ↔ b.toNat / 16 = 0 := by decide
  rw [imageMapperId, show (0 : Byte) = 0#8 from rfl, BitVec.or_eq_zero_iff]
  exact (and_congr (hhigh _) (hlow _)).trans and_comm

theorem hasMagic_iff (p : Params) (image : List Byte) :
    hasMagic p image = true ↔
      (headerByte image 0, headerByte image 1, headerByte image 2, headerByte image 3) = p.magic := beq_iff_eq

/-- The length the header of an image gives (R82, R83). -/
def imageLength (p : Params) (image : List Byte) : Nat :=
  16 + (if headerByte image 6 &&& p.trainerMask ≠ 0 then 512 else 0) + 16384 * (headerByte image 4).toNat +
    8192 * (headerByte image 5).toNat

theorem programStart_eq (p : Params) (image : List Byte) :
    programStart p image = 16 + if headerByte image 6 &&& p.trainerMask ≠ 0 then 512 else 0 := by
  rw [programStart]
  split <;> rfl

theorem imageLength_eq (p : Params) (image : List Byte) :
    imageLength p image = programStart p image + programSize image + graphicsSize image := by
  rw [programStart_eq]
  rfl

/-! ## Which images load (R83, R85, R86, R92) -/

/-- What an image must be for its load to succeed. -/
def Accepted (p : Params) (image : List Byte) : Prop :=
  image.length = imageLength p image ∧ headerByte image 4 ≠ 0 ∧ imageMapperId image = 0 ∧
  (p.validateMagic = true → hasMagic p image = true)

theorem parseImage_of_accepted (p : Params) (image : List Byte) (h : Accepted p image) :
    parseImage p image = .ok (imageCartridge p image) := by
  obtain ⟨hlength, hbanks, hmapper, hmagic⟩ := h
  have hlong : ¬ image.length < 16 := by rw [hlength, imageLength]; omega
  have hsigned : ¬ (p.validateMagic && !hasMagic p image) = true := by
    cases hv : p.validateMagic <;> simp [hv] at hmagic ⊢
    exact hmagic
  rw [imageLength_eq] at hlength
  rw [parseImage, if_neg hlong, if_neg hsigned, if_neg (not_not.2 hmapper), if_neg hbanks, if_neg (not_not.2 hlength)]

theorem accepted_of_parseImage {p : Params} {image : List Byte} {c : Cartridge} (h : parseImage p image = .ok c) :
    Accepted p image := by
  obtain ⟨-, hmapper, hbanks, hlength, -, hmagic⟩ := parseImage_ok p image c h
  exact ⟨hlength.trans (imageLength_eq p image).symm, hbanks, hmapper, hmagic⟩

/-- A fatal load names a defect the image has, in the order of log 9. -/
theorem parseImage_error {p : Params} {image : List Byte} {r : Fault} (h : parseImage p image = .error r) :
    (r = .lengthMismatch ∧ image.length ≠ imageLength p image) ∨
    (r = .badMagic ∧ p.validateMagic = true ∧ hasMagic p image = false) ∨
    (r = .unsupportedMapper ∧ imageMapperId image ≠ 0) ∨ (r = .noProgramBank ∧ headerByte image 4 = 0) := by
  rw [parseImage] at h
  split at h
  · cases h
    exact .inl ⟨rfl, by rw [imageLength]; omega⟩
  split at h
  · cases h
    exact .inr (.inl ⟨rfl, by simp_all⟩)
  split at h
  · cases h
    exact .inr (.inr (.inl ⟨rfl, ‹_›⟩))
  split at h
  · cases h
    exact .inr (.inr (.inr ⟨rfl, ‹_›⟩))
  split at h
  · cases h
    exact .inl ⟨rfl, by rwa [imageLength_eq]⟩
  · cases h

theorem loadCartridge_of_ok {s : State} {image : List Byte} {c : Cartridge} (h : parseImage s.params image = .ok c) :
    loadCartridge image s = .next (s.setCart (some c)) := by simp only [loadCartridge, h]

theorem loadCartridge_of_error {s : State} {image : List Byte} {r : Fault} (h : parseImage s.params image = .error r) :
    loadCartridge image s = .fault r := by simp only [loadCartridge, h]

/-- A load succeeds exactly for an accepted image. -/
theorem exists_loadCartridge_iff (image : List Byte) (s : State) :
    (∃ t, loadCartridge image s = .next t) ↔ Accepted s.params image := by
  refine ⟨fun ⟨t, ht⟩ => ?_, fun h => ⟨_, loadCartridge_of_ok (parseImage_of_accepted _ _ h)⟩⟩
  cases hp : parseImage s.params image with
  | ok c => exact accepted_of_parseImage hp
  | error r =>
    rw [loadCartridge_of_error hp] at ht
    cases ht

/-- Settles O49: the checks of a load in numbers, one reason each. -/
theorem cartridgeLoadAccepts : Obligations.CartridgeLoadAccepts := by
  intro image s byte length magic
  refine ⟨?accepts, fun r hr => ?reason, fun r hr => ?never⟩
  case accepts =>
    refine (exists_loadCartridge_iff image s).trans ?_
    rw [Accepted, imageMapperId_eq_zero_iff, hasMagic_iff, and_assoc]
    exact Iff.rfl
  case reason =>
    change loadCartridge image s = .fault r at hr
    cases hp : parseImage s.params image with
    | ok c => rw [loadCartridge_of_ok hp] at hr; cases hr
    | error q =>
      rw [loadCartridge_of_error hp] at hr
      cases hr
      obtain ⟨rfl, hlength⟩ | ⟨rfl, hv, hmagic⟩ | ⟨rfl, hmapper⟩ | ⟨rfl, hbanks⟩ := parseImage_error hp
      · exact ⟨nofun, fun _ => hlength, nofun, nofun⟩
      · refine ⟨nofun, nofun, nofun, fun _ => ⟨hv, fun hm => ?_⟩⟩
        rw [(hasMagic_iff _ _).2 hm] at hmagic
        cases hmagic
      · refine ⟨nofun, nofun, fun _ => ?_, nofun⟩
        rw [ne_eq, imageMapperId_eq_zero_iff, not_and_or] at hmapper
        exact hmapper
      · exact ⟨fun _ => hbanks, nofun, nofun, nofun⟩
  case never =>
    change loadCartridge image s = .refused r at hr
    cases hp : parseImage s.params image with
    | ok c => rw [loadCartridge_of_ok hp] at hr; cases hr
    | error q => rw [loadCartridge_of_error hp] at hr; cases hr

/-! ## Where the bytes of a loaded image stand (R82-R84) -/

theorem read_ofBytes_zero (bytes : List Byte) (k : Nat) : Memory.read (Memory.ofBytes 0 bytes) k = bytes.getD k 0 := by
  have := Memory.read_ofBytes bytes 0 k
  rwa [Nat.zero_add] at this

section
variable (p : Params) (image : List Byte) (k : Nat)

theorem read_imageCartridge_prg (h : k < programSize image) :
    Memory.read (imageCartridge p image).prg k = image.getD (programStart p image + k) 0 := by
  rw [imageCartridge, read_ofBytes_zero, List.getD_eq_getElem?_getD, List.getElem?_take_of_lt h, List.getElem?_drop,
    ← List.getD_eq_getElem?_getD]

theorem read_imageCartridge_chr :
    Memory.read (imageCartridge p image).chr k =
      image.getD (programStart p image + programSize image + k) 0 := by
  rw [imageCartridge, read_ofBytes_zero, List.getD_eq_getElem?_getD, List.getElem?_drop, List.getElem?_drop,
    ← List.getD_eq_getElem?_getD, Nat.add_assoc]

end

/-- Settles O50: the cartridge is the image's, whose arrays read as the image at their offsets; with no graphics bank the
image ends before the graphics array. -/
theorem loadedCartridge : Obligations.LoadedCartridge := by
  intro image s t ht byte start
  change loadCartridge image s = .next t at ht
  cases hp : parseImage s.params image with
  | error r => rw [loadCartridge_of_error hp] at ht; cases ht
  | ok c =>
    rw [loadCartridge_of_ok hp] at ht
    cases ht
    obtain ⟨rfl, hmapper, -, hlength, -, -⟩ := parseImage_ok _ image c hp
    have hstart : programStart s.params image = start := programStart_eq s.params image
    refine ⟨_, rfl, rfl, rfl, hmapper, fun k hk => ?_, fun k _ => ?_, fun h5 => ⟨?_, fun k => ?_⟩⟩
    · rw [read_imageCartridge_prg _ _ _ hk, hstart]
    · rw [read_imageCartridge_chr, hstart]
      rfl
    · exact beq_iff_eq.2 h5
    · have hno : graphicsSize image = 0 := congrArg (fun b : Byte => 8192 * b.toNat) h5
      rw [read_imageCartridge_chr]
      exact List.getD_eq_default _ _ (by omega)

end Sys2Proof.Machine

/-! PROOFS. The graphics timer (spec 60_exceptions.md section 7): a tick by the place of its timer in the frame, the length
of a frame and the vertical blank. -/

namespace Sys2Proof.Machine

/-! ## One tick -/

/-- A tick writes bit 7 of STATUS at its two places (R441). -/
theorem status_bit_timerTick (s : State) :
    (timerTick s).gfx.status.getLsbD 7 =
      (if s.timer.scanline = -1 ∧ s.timer.cycle = 1 then false
       else if s.timer.scanline = 241 ∧ s.timer.cycle = 1 then true else s.gfx.status.getLsbD 7) := by
  simp only [timerTick, vblankEvents, State.setTimer_gfx, State.setGfx_gfx]
  split
  · exact setBit_getLsbD s.gfx.status 7 7 false (by decide)
  · split
    · exact setBit_getLsbD s.gfx.status 7 7 true (by decide)
    · rfl

/-- VB is bit 7: writing it leaves the other seven bits (R42). -/
theorem setBit_seven_low (b : Byte) (v : Bool) : setBit b 7 v &&& 0x7F = b &&& 0x7F := by
  refine BitVec.eq_of_getLsbD_eq fun k hk => ?_
  rw [BitVec.getLsbD_and, BitVec.getLsbD_and, setBit_getLsbD b 7 k v hk]
  split
  · rename_i h7
    simp [h7]
  · rfl

/-- A tick writes STATUS alone in the register file (20 R75). -/
theorem vblankEvents_eq (t : Timer) (g : Gfx) : vblankEvents t g = { g with status := (vblankEvents t g).status } := by
  rw [vblankEvents]
  split
  · rfl
  · split <;> rfl

/-- Settles O57: the two places of the tick, and what it leaves. -/
theorem verticalBlankEvents : Obligations.VerticalBlankEvents := by
  intro s
  refine ⟨status_bit_timerTick s, ?_, rfl, rfl, ?_⟩
  · simp only [timerTick, vblankEvents, State.setTimer_gfx, State.setGfx_gfx]
    split
    · exact setBit_seven_low _ false
    · split
      · exact setBit_seven_low _ true
      · rfl
  · rw [timerTick, State.setTimer_gfx, State.setGfx_gfx, State.setTimer_timer, ← vblankEvents_eq]

/-! ## The place in the frame (R442) -/

theorem position_lt (t : Timer) (h : t.Inv) : t.position < 89342 := by
  obtain ⟨hlow, hhigh, hcycle⟩ := h
  rw [Timer.position]
  omega

/-- The place determines the counters. -/
theorem counters_eq_of_position_eq (t u : Timer) (ht : t.Inv) (hu : u.Inv) (h : t.position = u.position) :
    t.scanline = u.scanline ∧ t.cycle = u.cycle := by
  obtain ⟨htl, hth, htc⟩ := ht
  obtain ⟨hul, huh, huc⟩ := hu
  rw [Timer.position, Timer.position] at h
  omega

/-- The counters go on by one place, from the last one to the first (R440). -/
theorem position_advanceTimer (t : Timer) (h : t.Inv) : (advanceTimer t).position = (t.position + 1) % 89342 := by
  obtain ⟨hlow, hhigh, hcycle⟩ := h
  rw [advanceTimer]
  split
  · split
    · simp only [Timer.position]; omega
    · simp only [Timer.position]; omega
  · simp only [Timer.position]; omega

/-- The frame is marked complete by the advance from its last place (R440). -/
theorem frameComplete_advanceTimer (t : Timer) (h : t.Inv) :
    (advanceTimer t).frameComplete = true ↔ t.frameComplete = true ∨ t.position = 89341 := by
  obtain ⟨hlow, hhigh, hcycle⟩ := h
  rw [advanceTimer]
  split
  · split
    · simp only [Timer.position, true_iff]; omega
    · exact (or_iff_left (by rw [Timer.position]; omega)).symm
  · exact (or_iff_left (by rw [Timer.position]; omega)).symm

theorem timer_timerTick (s : State) : (timerTick s).timer = advanceTimer s.timer := rfl

theorem timerTicks_succ_last (n : Nat) (s : State) : timerTicks (n + 1) s = timerTick (timerTicks n s) :=
  timerTicks_add 1 n s

section
variable (s : State) (h : s.timer.Inv)
include h

theorem timer_inv_timerTicks (n : Nat) : (timerTicks n s).timer.Inv := by
  induction n with
  | zero => exact h
  | succ k ih =>
    rw [timerTicks_succ_last]
    exact advanceTimer_inv _ ih

theorem position_timerTicks (n : Nat) : (timerTicks n s).timer.position = (s.timer.position + n) % 89342 := by
  induction n with
  | zero => exact (Nat.mod_eq_of_lt (position_lt s.timer h)).symm
  | succ k ih =>
    rw [timerTicks_succ_last, timer_timerTick, position_advanceTimer _ (timer_inv_timerTicks s h k), ih]
    omega

theorem frameComplete_timerTicks (n : Nat) :
    (timerTicks n s).timer.frameComplete = true ↔ s.timer.frameComplete = true ∨ 89342 ≤ s.timer.position + n := by
  induction n with
  | zero =>
    have := position_lt s.timer h
    rw [timerTicks, Nat.add_zero, or_iff_left (by omega)]
  | succ k ih =>
    rw [timerTicks_succ_last, timer_timerTick, frameComplete_advanceTimer _ (timer_inv_timerTicks s h k), ih,
      position_timerTicks s h, or_assoc]
    refine or_congr_right ?_
    omega

/-! ## Vertical blank by the place of the tick (R441) -/

theorem status_bit_timerTick_of_position :
    (timerTick s).gfx.status.getLsbD 7 =
      if s.timer.position = 1 then false else if s.timer.position = 82523 then true else s.gfx.status.getLsbD 7 := by
  obtain ⟨hlow, hhigh, hcycle⟩ := h
  have hclear : s.timer.scanline = -1 ∧ s.timer.cycle = 1 ↔ s.timer.position = 1 := by rw [Timer.position]; omega
  have hset : s.timer.scanline = 241 ∧ s.timer.cycle = 1 ↔ s.timer.position = 82523 := by rw [Timer.position]; omega
  simp only [status_bit_timerTick, hclear, hset]

/-- Between the two places VB stays. -/
theorem status_bit_timerTicks_of_quiet (n : Nat)
    (hq : ∀ j, j < n → (s.timer.position + j) % 89342 ≠ 1 ∧ (s.timer.position + j) % 89342 ≠ 82523) :
    (timerTicks n s).gfx.status.getLsbD 7 = s.gfx.status.getLsbD 7 := by
  induction n with
  | zero => rfl
  | succ k ih =>
    obtain ⟨hclear, hset⟩ := hq k (by omega)
    rw [timerTicks_succ_last, status_bit_timerTick_of_position _ (timer_inv_timerTicks s h k),
      position_timerTicks s h, if_neg hclear, if_neg hset, ih fun j hj => hq j (by omega)]

/-- The last of `n + 1` ticks decides VB by its place. -/
theorem status_bit_timerTicks_succ (n : Nat) :
    (timerTicks (n + 1) s).gfx.status.getLsbD 7 =
      if (s.timer.position + n) % 89342 = 1 then false else if (s.timer.position + n) % 89342 = 82523 then true
      else (timerTicks n s).gfx.status.getLsbD 7 := by
  rw [timerTicks_succ_last, status_bit_timerTick_of_position _ (timer_inv_timerTicks s h n), position_timerTicks s h]

theorem status_bit_timerTicks_of_clear (n : Nat) (h0 : 1 ≤ n) (hn : (s.timer.position + (n - 1)) % 89342 = 1) :
    (timerTicks n s).gfx.status.getLsbD 7 = false := by
  obtain ⟨m, rfl⟩ := Nat.exists_eq_add_of_le' h0
  rw [Nat.add_sub_cancel] at hn
  rw [status_bit_timerTicks_succ s h, if_pos hn]

theorem status_bit_timerTicks_of_set (n : Nat) (h0 : 1 ≤ n) (hn : (s.timer.position + (n - 1)) % 89342 = 82523) :
    (timerTicks n s).gfx.status.getLsbD 7 = true := by
  obtain ⟨m, rfl⟩ := Nat.exists_eq_add_of_le' h0
  rw [Nat.add_sub_cancel] at hn
  rw [status_bit_timerTicks_succ s h, if_neg (by omega), if_pos hn]

/-- The counters after as many ticks as a frame has (`n` stands for the number, which no tactic is to unfold). -/
theorem timer_timerTicks_of_frame (n : Nat) (hn : n = 89342) :
    (timerTicks n s).timer = { s.timer with frameComplete := true } := by
  have hpos : (timerTicks n s).timer.position = s.timer.position := by
    rw [position_timerTicks s h, hn, Nat.add_mod_right, Nat.mod_eq_of_lt (position_lt _ h)]
  obtain ⟨hline, hcycle⟩ := counters_eq_of_position_eq _ _ (timer_inv_timerTicks s h n) h hpos
  have hdone := (frameComplete_timerTicks s h n).2 (.inr (by omega))
  cases ht : (timerTicks n s).timer with
  | mk line cycle done =>
    rw [ht] at hline hcycle hdone
    rw [Timer.mk.injEq]
    exact ⟨hline, hcycle, hdone⟩

end

/-- Settles O58, from the place after any number of ticks. -/
theorem frameLength : Obligations.FrameLength :=
  fun s h => ⟨timer_timerTicks_of_frame s h 89342 (Eq.refl 89342), position_timerTicks s h⟩

section
variable (s : State) (h : s.timer.Inv)
include h

/-- VB stays set after the tick that sets it (R442). -/
theorem status_bit_timerTicks_of_window (hpos : s.timer.position = 82523) (k : Nat) (hk : k < 6820) :
    (timerTicks (k + 1) s).gfx.status.getLsbD 7 = true := by
  have hnext : (timerTick s).timer.position = 82524 := by
    rw [timer_timerTick, position_advanceTimer _ h, hpos]
  have hset : (timerTick s).gfx.status.getLsbD 7 = true := by
    rw [status_bit_timerTick_of_position s h, if_neg (by omega), if_pos hpos]
  rw [timerTicks_succ, status_bit_timerTicks_of_quiet _ (advanceTimer_inv _ h) k fun j hj => ?_, hset]
  rw [hnext]
  omega

/-- VB stays clear from the start of line 0 up to the tick that sets it (70 R476). -/
theorem status_bit_timerTicks_of_powerOn (hpos : s.timer.position = 341) (hclear : s.gfx.status.getLsbD 7 = false)
    (k : Nat) (hk : k < 82183) : (timerTicks k s).gfx.status.getLsbD 7 = false := by
  rw [status_bit_timerTicks_of_quiet _ h k fun j hj => ?_, hclear]
  rw [hpos]
  omega

end

/-- Settles O59: VB is quiet between the places of its two events, and a machine at power-on stands at place 341. -/
theorem verticalBlankWindow : Obligations.VerticalBlankWindow := by
  refine ⟨fun s hline hcycle => ?window, ?powerOn⟩
  case window =>
    have hinv : s.timer.Inv := ⟨by omega, by omega, by omega⟩
    have hpos : s.timer.position = 82523 := by rw [Timer.position]; omega
    refine ⟨fun k h1 hk => ?_, status_bit_timerTicks_of_clear s hinv 6821 (by omega) (by omega)⟩
    obtain ⟨j, rfl⟩ := Nat.exists_eq_add_of_le' h1
    exact status_bit_timerTicks_of_window s hinv hpos j (by omega)
  case powerOn =>
    intro p ram vram n t
    have htimer : (State.powerOn p ram vram).timer = ⟨0, 0, false⟩ := rfl
    have hclear : (State.powerOn p ram vram).gfx.status.getLsbD 7 = false := BitVec.getLsbD_zero
    have hinv : (State.powerOn p ram vram).timer.Inv := htimer ▸ ⟨by decide, by decide, by decide⟩
    have hpos : (State.powerOn p ram vram).timer.position = 341 := htimer ▸ rfl
    refine ⟨status_bit_timerTicks_of_powerOn _ hinv hpos hclear n, fun hn => ?_, ?_⟩
    · exact status_bit_timerTicks_of_set _ hinv n (by omega) (by omega)
    · refine (frameComplete_timerTicks _ hinv n).trans ?_
      rw [hpos, htimer, or_iff_right Bool.false_ne_true]
      omega

end Sys2Proof.Machine

/-! PROOFS. Instructions that read an operand and write registers and flags: arithmetic, logic, BIT, compares and loads
(specs 41_arithmetic_logical.md, 42_shift_incdec_compare.md section 3, 44_flags_transfer_loadstore.md section 3). -/

namespace Sys2Proof.Machine

/-! ## An operation on the CPU alone -/

/-- `t` is `s` after an operation that writes at most the given registers and flags, and reads and writes no memory. -/
structure Computes (regs : List Reg) (flags : List Flag) (s t : State) : Prop where
  regsKept : RegsKept regs s t
  flagsKept : FlagsKept flags s t
  othersKept : OthersKept s t
  ram : t.ram = s.ram
  cart : t.cart = s.cart
  gfx : t.gfx = s.gfx

theorem OthersKept.params {s t : State} (h : OthersKept s t) : t.params = s.params := by
  obtain ⟨-, hparams, -⟩ := h
  exact hparams

/-- What memory reads depends on four fields. -/
theorem memoryKept_of_eq {s t : State} (hram : t.ram = s.ram) (hcart : t.cart = s.cart) (hgfx : t.gfx = s.gfx)
    (hparams : t.params = s.params) : MemoryKept s t :=
  ⟨fun a => peek_congr _ _ a hram hcart hgfx hparams,
    fun a => ppuRead_congr _ _ a hcart (by rw [hgfx]) (by rw [hgfx]) (by rw [hgfx]) hparams, hram, hcart, hgfx⟩

theorem Computes.memoryKept {regs : List Reg} {flags : List Flag} {s t : State} (h : Computes regs flags s t) :
    MemoryKept s t := memoryKept_of_eq h.ram h.cart h.gfx h.othersKept.params

theorem RegsKept.trans {regs : List Reg} {s t u : State} (h : RegsKept regs s t) (k : RegsKept regs t u) :
    RegsKept regs s u := by
  obtain ⟨ha, hx, hy, hsp, hpc⟩ := h
  obtain ⟨ka, kx, ky, ksp, kpc⟩ := k
  exact ⟨fun hr => (ka hr).trans (ha hr), fun hr => (kx hr).trans (hx hr), fun hr => (ky hr).trans (hy hr),
    fun hr => (ksp hr).trans (hsp hr), fun hr => (kpc hr).trans (hpc hr)⟩

theorem FlagsKept.trans {flags : List Flag} {s t u : State} (h : FlagsKept flags s t) (k : FlagsKept flags t u) :
    FlagsKept flags s u := fun f hf => (k f hf).trans (h f hf)

section
variable (flags : List Flag) (s : State)

/-- Writing P alone: what is kept is what the flags say. -/
theorem computes_setP (p : Byte) (h : FlagsKept flags s (s.setP p)) : Computes [] flags s (s.setP p) :=
  ⟨⟨fun _ => rfl, fun _ => rfl, fun _ => rfl, fun _ => rfl, fun _ => rfl⟩, h, OthersKept.refl s, rfl, rfl, rfl⟩

theorem computes_putA (v : Byte) : Computes [.a] [.z, .n] s (putA v s) :=
  ⟨⟨fun h => absurd (List.mem_singleton_self _) h, fun _ => rfl, fun _ => rfl, fun _ => rfl, fun _ => rfl⟩,
    flagsKept_of_znFlags rfl, OthersKept.refl s, rfl, rfl, rfl⟩

theorem computes_putX (v : Byte) : Computes [.x] [.z, .n] s (putX v s) :=
  ⟨⟨fun _ => rfl, fun h => absurd (List.mem_singleton_self _) h, fun _ => rfl, fun _ => rfl, fun _ => rfl⟩,
    flagsKept_of_znFlags rfl, OthersKept.refl s, rfl, rfl, rfl⟩

theorem computes_putY (v : Byte) : Computes [.y] [.z, .n] s (putY v s) :=
  ⟨⟨fun _ => rfl, fun _ => rfl, fun h => absurd (List.mem_singleton_self _) h, fun _ => rfl, fun _ => rfl⟩,
    flagsKept_of_znFlags rfl, OthersKept.refl s, rfl, rfl, rfl⟩

/-- ADC's flags are C, V, Z and N (R182). -/
theorem computes_addToA (m : Byte) : Computes [.a] [.c, .z, .v, .n] s (addToA m s) := by
  refine ⟨⟨fun h => absurd (List.mem_singleton_self _) h, fun _ => rfl, fun _ => rfl, fun _ => rfl, fun _ => rfl⟩,
    fun f hf => ?_, OthersKept.refl s, rfl, rfl, rfl⟩
  obtain ⟨hc, hz, hv, hn⟩ : f ≠ .c ∧ f ≠ .z ∧ f ≠ .v ∧ f ≠ .n := by simpa using hf
  refine (getFlag_addFlags s.cpu.p s.cpu.a m (s.flag .c) f).trans ?_
  rw [if_neg hn, if_neg hz, if_neg hv, if_neg hc, State.flag_eq]

/-- A compare's flags are C, Z and N (R230). -/
theorem computes_compareWith (reg m : Byte) : Computes [] [.c, .z, .n] s (compareWith reg m s) := by
  refine computes_setP _ s _ fun f hf => ?_
  obtain ⟨hc, hz, hn⟩ : f ≠ .c ∧ f ≠ .z ∧ f ≠ .n := by simpa using hf
  refine (getFlag_compareFlags s.cpu.p reg m f).trans ?_
  rw [if_neg hn, if_neg hz, if_neg hc, State.flag_eq]

/-- BIT's flags are Z, N and V (R187). -/
theorem computes_bitTest (a m : Byte) : Computes [] [.z, .n, .v] s (s.setP (bitFlags s.cpu.p a m)) := by
  refine computes_setP _ s _ fun f hf => ?_
  obtain ⟨hz, hn, hv⟩ : f ≠ .z ∧ f ≠ .n ∧ f ≠ .v := by simpa using hf
  refine (getFlag_bitFlags s.cpu.p a m f).trans ?_
  rw [if_neg hv, if_neg hn, if_neg hz, State.flag_eq]

end

/-- `SetZN` in numbers (R180). -/
theorem zeroNegativeOf_of_znFlags {t : State} {p v : Byte} (h : t.cpu.p = znFlags p v) : ZeroNegativeOf v t := by
  rw [ZeroNegativeOf, State.flag_eq, State.flag_eq, h, getFlag_znFlags, getFlag_znFlags, if_neg (by decide), if_pos rfl,
    if_pos rfl, byte_zero_iff, byte_msb_iff, decide_eq_true_iff, decide_eq_true_iff]
  exact ⟨Iff.rfl, Iff.rfl⟩

/-! ## The shape of a reading instruction -/

/-- The state an operation of a reading instruction starts from: the operand is read. -/
def operated (i : Instr) (s : State) : State := writeTemp (loaded i s).2

section
variable (i : Instr) (s : State)

@[simp] theorem operated_a : (operated i s).cpu.a = s.cpu.a := by rw [operated, writeTemp_a, loaded_a]
@[simp] theorem operated_x : (operated i s).cpu.x = s.cpu.x := by rw [operated, writeTemp_x, loaded_x]
@[simp] theorem operated_y : (operated i s).cpu.y = s.cpu.y := by rw [operated, writeTemp_y, loaded_y]
@[simp] theorem operated_p : (operated i s).cpu.p = s.cpu.p := by rw [operated, writeTemp_p, loaded_p]
@[simp] theorem operated_flag (f : Flag) : (operated i s).flag f = s.flag f := by
  rw [operated, writeTemp_flag, loaded_flag]

/-- Reading the operand leaves every register and every flag, whichever the instruction writes later. -/
theorem operated_kept (regs : List Reg) (flags : List Flag) :
    RegsKept regs s (operated i s) ∧ FlagsKept flags s (operated i s) ∧ OthersKept s (operated i s) :=
  ⟨by simp [RegsKept, operated], fun f _ => operated_flag i s f, othersKept_loaded i s⟩

variable (signal : Bool) (f : Byte → State → State)

theorem readInstr_cpu_a :
    (readInstr i signal f s).cpu.a = (f (operandValue i s) (operated i s)).cpu.a := addExtraCycle_a _ _ _
theorem readInstr_cpu_x :
    (readInstr i signal f s).cpu.x = (f (operandValue i s) (operated i s)).cpu.x := addExtraCycle_x _ _ _
theorem readInstr_cpu_y :
    (readInstr i signal f s).cpu.y = (f (operandValue i s) (operated i s)).cpu.y := addExtraCycle_y _ _ _
theorem readInstr_cpu_p :
    (readInstr i signal f s).cpu.p = (f (operandValue i s) (operated i s)).cpu.p := addExtraCycle_p _ _ _

/-- The frame of a reading instruction: what its operation writes, and what the read of its operand does. -/
theorem readInstr_frame (regs : List Reg) (flags : List Flag) (h : ∀ m u, Computes regs flags u (f m u)) :
    RegsKept regs s (readInstr i signal f s) ∧ FlagsKept flags s (readInstr i signal f s) ∧
      ReadFrame i s (readInstr i signal f s) := by
  obtain ⟨hregs, hflags, -⟩ := operated_kept i s regs flags
  have hf := h (operandValue i s) (operated i s)
  have hothers := readInstr_othersKept i signal f s fun m u => (h m u).othersKept
  have hparams : (readInstr i signal f s).params = s.params := hothers.params
  have hgfx : (readInstr i signal f s).gfx = (loaded i s).2.gfx := (addExtraCycle_gfx _ _ _).trans hf.gfx
  have hram : (readInstr i signal f s).ram = s.ram :=
    ((addExtraCycle_ram _ _ _).trans hf.ram).trans (loaded_ram i s)
  have hcart : (readInstr i signal f s).cart = s.cart :=
    ((addExtraCycle_cart _ _ _).trans hf.cart).trans (loaded_cart i s)
  refine ⟨(hregs.trans hf.regsKept).trans ?_, (hflags.trans hf.flagsKept).trans fun g _ => addExtraCycle_flag _ _ _ g,
    bytesKept_of_loaded i s _ hram hcart hgfx hparams, hgfx, hothers⟩
  exact ⟨fun _ => addExtraCycle_a _ _ _, fun _ => addExtraCycle_x _ _ _, fun _ => addExtraCycle_y _ _ _,
    fun _ => addExtraCycle_sp _ _ _, fun _ => addExtraCycle_pc _ _ _⟩

/-- An instruction that puts a function of A and its operand into A. -/
theorem readInstr_putA (r : Byte → Byte → Byte) :
    let t := readInstr i signal (fun m u => putA (r u.cpu.a m) u) s
    t.cpu.a = r s.cpu.a (operandValue i s) ∧ ZeroNegativeOf t.cpu.a t ∧ RegsKept [.a] s t ∧ FlagsKept [.z, .n] s t ∧
      ReadFrame i s t := by
  intro t
  have ha : t.cpu.a = r s.cpu.a (operandValue i s) := by
    rw [readInstr_cpu_a, ← operated_a i s]
    rfl
  have hzn : ZeroNegativeOf t.cpu.a t := by
    rw [readInstr_cpu_a]
    exact zeroNegativeOf_of_znFlags (readInstr_cpu_p i s signal _)
  exact ⟨ha, hzn, readInstr_frame i s signal _ _ _ fun m u => computes_putA u _⟩

end

/-! ## ADC and SBC -/

section
variable (i : Instr) (s : State) (g : Byte → Byte)

/-- The body ADC and SBC share (R182, R183). -/
theorem readInstr_addToA :
    let t := readInstr i true (fun m => addToA (g m)) s
    t.cpu.a = addResult s.cpu.a (g (operandValue i s)) (s.flag .c) ∧
      t.cpu.p = addFlags s.cpu.p s.cpu.a (g (operandValue i s)) (s.flag .c) := by
  intro t
  rw [readInstr_cpu_a, readInstr_cpu_p, ← operated_a i s, ← operated_p i s, ← operated_flag i s]
  exact ⟨rfl, rfl⟩

/-- What an addition leaves beside V. -/
theorem readInstr_addToA_result :
    let t := readInstr i true (fun m => addToA (g m)) s
    let sum := s.cpu.a.toNat + (g (operandValue i s)).toNat + flagNat s .c
    t.cpu.a.toNat = sum % 256 ∧ (t.flag .c = true ↔ 255 < sum) ∧ ZeroNegativeOf t.cpu.a t := by
  obtain ⟨ha, hp⟩ := readInstr_addToA i s g
  intro t sum
  have hsum : addSum s.cpu.a (g (operandValue i s)) (s.flag .c) = sum := by
    simp only [sum, addSum, flagNat, Bool.toNat, Bool.cond_eq_ite]
  refine ⟨?_, ?_, ?_⟩
  · rw [ha, addResult, hsum, BitVec.toNat_ofNat]
  · rw [State.flag_eq, hp, getFlag_addFlags, hsum, if_neg (by decide), if_neg (by decide), if_neg (by decide), if_pos rfl]
    exact decide_eq_true_iff
  · rw [ha]
    exact zeroNegativeOf_of_znFlags hp

theorem readInstr_addToA_overflow :
    (readInstr i true (fun m => addToA (g m)) s).flag .v =
      overflow s.cpu.a (g (operandValue i s)) (addResult s.cpu.a (g (operandValue i s)) (s.flag .c)) := by
  obtain ⟨-, hp⟩ := readInstr_addToA i s g
  rw [State.flag_eq, hp, getFlag_addFlags, if_neg (by decide), if_neg (by decide), if_pos rfl]

end

/-- Settles O26: the shared body, with the operand itself. -/
theorem addWithCarry : Obligations.AddWithCarry := by
  intro f s
  obtain ⟨hres, hc, hzn⟩ := readInstr_addToA_result (.adc f) s id
  obtain ⟨ha, -⟩ := readInstr_addToA (.adc f) s id
  refine ⟨_, rfl, ⟨hres, hc, ?_⟩, hzn, readInstr_frame (.adc f) s true _ _ _ fun m u => computes_addToA u m⟩
  refine (Bool.eq_iff_iff.1 (readInstr_addToA_overflow (.adc f) s id)).trans ?_
  rw [← ha]
  exact overflow_iff _ _ _

/-- The complement of an operand is 255 minus it. -/
theorem complement_toNat (m : Byte) : (m ^^^ 0xFF).toNat = 255 - m.toNat :=
  (congrArg BitVec.toNat (BitVec.xor_allOnes (x := m))).trans BitVec.toNat_not

/-- As a signed number it is minus the operand, minus 1. -/
theorem complement_toInt (m : Byte) : (m ^^^ 0xFF).toInt = -m.toInt - 1 := by
  rw [BitVec.toInt_eq_toNat_cond, BitVec.toInt_eq_toNat_cond, complement_toNat]
  have := m.isLt
  split <;> split <;> omega

/-- The carry as a number, and the borrow it stands for. -/
theorem flagNat_cases (s : State) (f : Flag) : flagNat s f = 0 ∨ flagNat s f = 1 := by
  rw [flagNat]
  split
  · exact .inr rfl
  · exact .inl rfl

theorem flagNat_eq_toNat (s : State) (f : Flag) : flagNat s f = (s.flag f).toNat := by
  rw [flagNat]
  cases s.flag f <;> rfl

/-- Settles O27: the shared body, with the complemented operand, whose sum with A and C is A − m − borrow + 256. -/
theorem subtractWithCarry : Obligations.SubtractWithCarry := by
  intro f s
  obtain ⟨hres, hc, hzn⟩ := readInstr_addToA_result (.sbc f) s (· ^^^ 0xFF)
  refine ⟨_, rfl, ?_, hzn,
    readInstr_frame (.sbc f) s true _ _ _ fun m u => computes_addToA u (m ^^^ 0xFF)⟩
  intro m borrow
  have hm : m.toNat < 256 := m.isLt
  have hcarry : flagNat s .c + borrow = 1 := by
    obtain h | h := flagNat_cases s .c <;> simp only [borrow, h]
  rw [complement_toNat] at hres hc
  refine ⟨hres.trans ?_, hc.trans ?_, ?_⟩
  · change (_ + (255 - m.toNat) + _) % 256 = _
    congr 1
    omega
  · change 255 < _ + (255 - m.toNat) + _ ↔ _
    omega
  · refine (Bool.eq_iff_iff.1 (readInstr_addToA_overflow (.sbc f) s (· ^^^ 0xFF))).trans ?_
    refine (overflow_addResult_iff _ _ _).trans ?_
    rw [complement_toInt, ← flagNat_eq_toNat]
    change ¬ (_ ≤ _ + (-m.toInt - 1) + _ ∧ _ + (-m.toInt - 1) + _ ≤ _) ↔ _
    omega

/-! ## AND, ORA, EOR, BIT -/

/-- Settles O28. -/
theorem logicalInstructions : Obligations.LogicalInstructions := fun f s =>
  ⟨⟨_, rfl, readInstr_putA (.and f) s true (· &&& ·)⟩, ⟨_, rfl, readInstr_putA (.ora f) s true (· ||| ·)⟩,
    ⟨_, rfl, readInstr_putA (.eor f) s true (· ^^^ ·)⟩⟩

/-- Bit 6 of a byte in numbers. -/
theorem byte_bit_six_iff (v : Byte) : v.getLsbD 6 = true ↔ 64 ≤ v.toNat % 128 := by
  have := v.isLt
  rw [BitVec.getLsbD, Nat.testBit_eq_decide_div_mod_eq, decide_eq_true_iff]
  omega

/-- Settles O29. -/
theorem bitTest : Obligations.BitTest := by
  intro f s
  refine ⟨_, rfl, ?_, readInstr_frame (.bit f) s false _ _ _ fun m u => computes_bitTest u u.cpu.a m⟩
  intro m
  have hp : (readInstr (.bit f) false (fun m t => t.setP (bitFlags t.cpu.p t.cpu.a m)) s).cpu.p =
      bitFlags s.cpu.p s.cpu.a m := by
    rw [readInstr_cpu_p, ← operated_a (.bit f) s, ← operated_p (.bit f) s]
    rfl
  simp only [State.flag_eq, hp, getFlag_bitFlags, reduceCtorEq, if_false, if_true]
  refine ⟨beq_iff_eq, ?_, byte_bit_six_iff m⟩
  rw [byte_msb_iff, decide_eq_true_iff]

/-! ## Compares -/

section
variable (i : Instr) (signal : Bool) (reg : State → Byte) (s : State)

/-- The shape of a compare: `reg` reads the register compared (R230). -/
theorem readInstr_compareWith (hreg : reg (operated i s) = reg s) :
    let t := readInstr i signal (fun m u => compareWith (reg u) m u) s
    let m := operandValue i s
    ((t.flag .c = true ↔ m.toNat ≤ (reg s).toNat) ∧ (t.flag .z = true ↔ reg s = m) ∧
      (t.flag .n = true ↔ 128 ≤ (256 + (reg s).toNat - m.toNat) % 256)) ∧
      RegsKept [] s t ∧ FlagsKept [.c, .z, .n] s t ∧ ReadFrame i s t := by
  intro t m
  refine ⟨?_, readInstr_frame i s signal _ _ _ fun m u => computes_compareWith u (reg u) m⟩
  have hp : t.cpu.p = compareFlags s.cpu.p (reg s) m := by
    rw [readInstr_cpu_p, ← operated_p i s, ← hreg]
    rfl
  simp only [State.flag_eq, hp, getFlag_compareFlags, reduceCtorEq, if_false, if_true]
  refine ⟨decide_eq_true_iff, ?_, ?_⟩
  · rw [beq_iff_eq, sub_eq_zero]
  · have := m.isLt
    rw [byte_msb_iff, decide_eq_true_iff, BitVec.toNat_sub]
    congr! 2
    omega

end

/-- Settles O33. -/
theorem compares : Obligations.Compares :=
  ⟨fun f s => ⟨_, rfl, readInstr_compareWith (.cmp f) true (·.cpu.a) s (operated_a _ s)⟩, fun f s =>
    ⟨⟨_, rfl, readInstr_compareWith (.cpx f) false (·.cpu.x) s (operated_x _ s)⟩,
      ⟨_, rfl, readInstr_compareWith (.cpy f) false (·.cpu.y) s (operated_y _ s)⟩⟩⟩

/-! ## Loads -/

/-- Settles O43: a load puts its operand into its register. -/
theorem loads : Obligations.Loads := by
  refine ⟨fun f s => ⟨_, rfl, readInstr_putA (.lda f) s true fun _ m => m⟩, fun f s => ⟨_, rfl, ?ldx⟩,
    fun f s => ⟨_, rfl, ?ldy⟩⟩
  case ldx =>
    refine ⟨readInstr_cpu_x (.ldx f) s true putX, ?_, readInstr_frame (.ldx f) s true _ _ _ fun m u => computes_putX u m⟩
    rw [readInstr_cpu_x]
    exact zeroNegativeOf_of_znFlags (readInstr_cpu_p (.ldx f) s true putX)
  case ldy =>
    refine ⟨readInstr_cpu_y (.ldy f) s true putY, ?_, readInstr_frame (.ldy f) s true _ _ _ fun m u => computes_putY u m⟩
    rw [readInstr_cpu_y]
    exact zeroNegativeOf_of_znFlags (readInstr_cpu_p (.ldy f) s true putY)

end Sys2Proof.Machine

/-! PROOFS. Instructions that write memory: shifts, rotates, INC, DEC and the stores (specs 42_shift_incdec_compare.md
sections 1 and 2, 44_flags_transfer_loadstore.md section 4). -/

namespace Sys2Proof.Machine

/-! ## What a store does not read -/

theorem Computes.weaken {flags : List Flag} {s t : State} (regs : List Reg) (h : Computes [] flags s t) :
    Computes regs flags s t := by
  obtain ⟨⟨ha, hx, hy, hsp, hpc⟩, hflags, hothers, hram, hcart, hgfx⟩ := h
  exact ⟨⟨fun _ => ha List.not_mem_nil, fun _ => hx List.not_mem_nil, fun _ => hy List.not_mem_nil,
    fun _ => hsp List.not_mem_nil, fun _ => hpc List.not_mem_nil⟩, hflags, hothers, hram, hcart, hgfx⟩

theorem Computes.trans {regs : List Reg} {flags : List Flag} {s t u : State} (h : Computes regs flags s t)
    (k : Computes regs flags t u) : Computes regs flags s u :=
  ⟨h.regsKept.trans k.regsKept, h.flagsKept.trans k.flagsKept, h.othersKept.trans k.othersKept, k.ram.trans h.ram,
    k.cart.trans h.cart, k.gfx.trans h.gfx⟩

/-- An operation on the CPU alone changes the CPU and the free-value counter. -/
theorem Computes.eq_update {regs : List Reg} {flags : List Flag} {s t : State} (h : Computes regs flags s t) :
    t = { s with cpu := t.cpu, freeCount := t.freeCount } := by
  obtain ⟨htimer, hparams, hreset, -⟩ := h.othersKept
  rw [← htimer, ← hparams, ← hreset, ← h.ram, ← h.cart, ← h.gfx]

/-- So a byte stored after it is the byte stored before it. -/
theorem Computes.byteStored {regs : List Reg} {flags : List Flag} {s u t : State} {ea : Word} {v : Byte}
    (h : Computes regs flags s u) (hb : ByteStored ea v u t) : ByteStored ea v s t := by
  rw [h.eq_update] at hb
  obtain ⟨hram, hhigh, hport⟩ := hb
  refine ⟨hram, hhigh, fun hp => ?_⟩
  have hwrite := hport hp
  rw [portWrite_update] at hwrite
  exact hwrite

/-! ## Stores -/

theorem computes_resolved (regs : List Reg) (flags : List Flag) (i : Instr) (s : State) (h : i.operand.mode ≠ .ind) :
    Computes regs flags s (writeTemp (resolved i s).1) :=
  ⟨by simp [RegsKept], fun f _ => resolved_flag i s f, othersKept_resolved i s, resolved_ram i s, resolved_cart i s,
    resolved_gfx i s h⟩

/-- A store of a register's byte (R333). -/
theorem storeInstr_stored (i : Instr) (reg : State → Byte) (s : State) (hwf : Memory.wf s.ram)
    (h : i.operand.mode ≠ .ind) (hreg : reg (writeTemp (resolved i s).1) = reg s) :
    let t := storeInstr i reg s
    ByteStored (effectiveAddress i s) (reg s) s t ∧ RegsKept [] s t ∧ FlagsKept [] s t ∧ OthersKept s t := by
  intro t
  have hc := computes_resolved [] [] i s h
  have ht : t = memWrite (writeTemp (resolved i s).1) (effectiveAddress i s) (reg s) :=
    (storeInstr_eq i reg s).trans (by rw [hreg])
  have hcpu : t.cpu = (writeTemp (resolved i s).1).cpu := by rw [ht, memWrite_cpu]
  refine ⟨?_, ?_, fun f hf => ?_, storeInstr_othersKept i reg s⟩
  · rw [ht]
    exact hc.byteStored (memWrite_byteStored _ _ _ (by rw [hc.ram]; exact hwf))
  · rw [RegsKept, hcpu]
    exact hc.regsKept
  · rw [State.flag_eq, hcpu]
    exact hc.flagsKept f hf

/-- Settles O44. -/
theorem stores : Obligations.Stores :=
  ⟨fun f s hwf => ⟨_, rfl, storeInstr_stored (.sta f) (·.cpu.a) s hwf (by cases f <;> nofun) (resolved_a _ s)⟩,
    fun f s hwf => ⟨_, rfl, storeInstr_stored (.stx f) (·.cpu.x) s hwf (by cases f <;> nofun) (resolved_x _ s)⟩,
    fun f s hwf => ⟨_, rfl, storeInstr_stored (.sty f) (·.cpu.y) s hwf (by cases f <;> nofun) (resolved_y _ s)⟩⟩

/-! ## Read, modify, write -/

/-- Away from the ports the read of an operand leaves the register file. -/
theorem readOperand_gfx (o : Operand) (u : State) (h : o.mode = .imp ∨ ¬ IsPortAddress u.cpu.addrAbs) :
    (readOperand o u).2.gfx = u.gfx := by
  by_cases hi : o.mode ∈ [Mode.imp, .imm]
  · cases o with
    | imp | imm n => rfl
    | _ => simp [Operand.mode] at hi
  · have hport : ¬ IsPortAddress u.cpu.addrAbs := h.resolve_left fun hm => hi (by simp [hm])
    rw [readOperand_of_addressed o u hi, afterRead_of_not_port u _ hport]
    rfl

section
variable (i : Instr) (s : State)

theorem loaded_gfx (hind : i.operand.mode ≠ .ind)
    (h : i.operand.mode = .imp ∨ ¬ IsPortAddress (effectiveAddress i s)) : (loaded i s).2.gfx = s.gfx :=
  (readOperand_gfx i.operand (resolved i s).1 h).trans (resolved_gfx i s hind)

theorem computes_loaded (regs : List Reg) (flags : List Flag) (h : (loaded i s).2.gfx = s.gfx) :
    Computes regs flags s (loaded i s).2 :=
  ⟨by simp [RegsKept], fun f _ => loaded_flag i s f, othersKept_loaded i s, loaded_ram i s, loaded_cart i s, h⟩

theorem computes_operated (regs : List Reg) (flags : List Flag) : Computes regs flags (loaded i s).2 (operated i s) :=
  ⟨⟨fun _ => rfl, fun _ => rfl, fun _ => rfl, fun _ => rfl, fun _ => rfl⟩, fun _ _ => rfl, OthersKept.refl _, rfl, rfl,
    rfl⟩

theorem writeback_of_imp (o : Operand) (v : Byte) (u : State) (h : o.mode = .imp) : writeback o v u = u.setA v := by
  cases o with
  | imp => rfl
  | _ => cases h

theorem writeback_of_memory (o : Operand) (v : Byte) (u : State) (h : o.mode ≠ .imp) :
    writeback o v u = memWrite u u.cpu.addrAbs v := by
  cases o with
  | imp => exact absurd rfl h
  | _ => rfl

theorem writeback_p (o : Operand) (v : Byte) (u : State) : (writeback o v u).cpu.p = u.cpu.p := by
  by_cases h : o.mode = .imp
  · rw [writeback_of_imp o v u h]
    rfl
  · rw [writeback_of_memory o v u h, memWrite_cpu]

variable (r : Byte → State → Byte) (f : Byte → State → State)

theorem modifyInstr_cpu_p : (modifyInstr i r f s).cpu.p = (f (operandValue i s) (operated i s)).cpu.p := by
  rw [modifyInstr_eq, writeback_p]
  rfl

/-- What a read-modify-write instruction leaves, from what its flag operation leaves. -/
theorem modifyInstr_modifiesTo (flags : List Flag) (hwf : Memory.wf s.ram) (hind : i.operand.mode ≠ .ind)
    (hf : ∀ m u, Computes [] flags u (f m u)) (haddr : ∀ m u, (f m u).cpu.addrAbs = u.cpu.addrAbs)
    (hzn : ∀ m u, ∃ p, (f m u).cpu.p = znFlags p (r m u)) :
    ModifiesTo i (r (operandValue i s) (operated i s)) flags s (modifyInstr i r f s) := by
  have hp := modifyInstr_cpu_p i s r f
  have hloaded := (computes_operated i s [] flags).trans (hf (operandValue i s) (operated i s))
  obtain ⟨p, hpz⟩ := hzn (operandValue i s) (operated i s)
  refine ⟨zeroNegativeOf_of_znFlags (hp.trans hpz), fun g hg => ?_,
    modifyInstr_othersKept i r f s fun m u => (hf m u).othersKept, fun himp => ?imp, fun hmem => ?memory⟩
  · rw [State.flag_eq, hp]
    exact (hloaded.flagsKept g hg).trans (loaded_flag i s g)
  case imp =>
    have ht : modifyInstr i r f s = (f (operandValue i s) (operated i s)).setA (r (operandValue i s) (operated i s)) :=
      (modifyInstr_eq i r f s).trans (writeback_of_imp _ _ _ himp)
    have hbefore := (computes_loaded i s [.a] flags (loaded_gfx i s hind (.inl himp))).trans (hloaded.weaken [.a])
    have hafter : Computes [.a] flags (f (operandValue i s) (operated i s)) (modifyInstr i r f s) := by
      rw [ht]
      exact ⟨⟨fun h => absurd (List.mem_singleton_self _) h, fun _ => rfl, fun _ => rfl, fun _ => rfl, fun _ => rfl⟩,
        fun _ _ => rfl, OthersKept.refl _, rfl, rfl, rfl⟩
    exact ⟨by rw [ht]; rfl, (hbefore.trans hafter).regsKept, (hbefore.trans hafter).memoryKept⟩
  case memory =>
    have ht : modifyInstr i r f s = memWrite (f (operandValue i s) (operated i s)) (effectiveAddress i s)
        (r (operandValue i s) (operated i s)) := by
      rw [modifyInstr_eq, writeback_of_memory _ _ _ hmem, haddr]
      exact congrArg (memWrite _ · _) (loaded_addrAbs i s)
    have hstored : ByteStored (effectiveAddress i s) (r (operandValue i s) (operated i s)) (loaded i s).2
        (modifyInstr i r f s) := by
      rw [ht]
      exact hloaded.byteStored (memWrite_byteStored _ _ _ (by rw [hloaded.ram, loaded_ram]; exact hwf))
    have hregs : RegsKept [] s (loaded i s).2 := by simp [RegsKept]
    refine ⟨hregs.trans ?_, fun hport => ?_, fun hport => ⟨hstored, fun b hb => ?_⟩⟩
    · rw [RegsKept, ht, memWrite_cpu]
      exact hloaded.regsKept
    · exact (computes_loaded i s [] flags (loaded_gfx i s hind (.inr hport))).byteStored hstored
    · obtain ⟨-, -, hkept⟩ := hstored
      obtain ⟨hpeek, -⟩ := hkept hport
      exact (hpeek b hb).trans (peek_congr_of_not_port _ _ b hb (loaded_ram i s) (loaded_cart i s))

end

/-! ## The results in numbers -/

theorem aslResult_eq (v : Byte) : aslResult v = BitVec.ofNat 8 (2 * v.toNat) := by
  refine BitVec.eq_of_toNat_eq ?_
  rw [aslResult, BitVec.toNat_shiftLeft, Nat.shiftLeft_eq, BitVec.toNat_ofNat, Nat.mul_comm]

theorem lsrResult_eq (v : Byte) : lsrResult v = BitVec.ofNat 8 (v.toNat / 2) := by
  refine BitVec.eq_of_toNat_eq ?_
  have := v.isLt
  rw [lsrResult, BitVec.toNat_ushiftRight, Nat.shiftRight_eq_div_pow, BitVec.toNat_ofNat]
  omega

/-- The bit that enters meets a 0, so it is added. -/
theorem rolResult_eq (v : Byte) (c : Bool) : rolResult v c = BitVec.ofNat 8 (2 * v.toNat + c.toNat) := by
  rw [BitVec.ofNat_add, ← aslResult_eq]
  cases c with
  | false => exact BitVec.or_zero.trans (BitVec.add_zero _).symm
  | true =>
    refine (BitVec.add_eq_or_of_and_eq_zero (aslResult v) 1#8 ?_).symm
    exact (BitVec.and_twoPow (aslResult v) 0).trans (if_neg (by simp [aslResult]))

theorem rorResult_eq (v : Byte) (c : Bool) : rorResult v c = BitVec.ofNat 8 (v.toNat / 2 + 128 * c.toNat) := by
  rw [BitVec.ofNat_add, ← lsrResult_eq]
  cases c with
  | false => exact BitVec.zero_or.trans (BitVec.add_zero _).symm
  | true =>
    refine (BitVec.or_comm _ _).trans (BitVec.add_eq_or_of_and_eq_zero (lsrResult v) 0x80#8 ?_).symm
    exact (BitVec.and_twoPow (lsrResult v) 7).trans (if_neg (by simp [lsrResult]))

theorem byte_bit_zero_iff (v : Byte) : v.getLsbD 0 = true ↔ v.toNat % 2 = 1 := by
  rw [BitVec.getLsbD, Nat.testBit_zero, decide_eq_true_iff]

theorem byte_bit_seven_iff (v : Byte) : v.getLsbD 7 = true ↔ 128 ≤ v.toNat := by
  rw [byte_msb_iff, decide_eq_true_iff]

/-! ## Shifts and rotates -/

/-- The flags of a shift are C, Z and N (R220). -/
theorem computes_shiftFlags (out : Bool) (r : Byte) (s : State) : Computes [] [.c, .z, .n] s (shiftFlags out r s) := by
  refine ⟨⟨fun _ => rfl, fun _ => rfl, fun _ => rfl, fun _ => rfl, fun _ => rfl⟩, fun f hf => ?_, OthersKept.refl s, rfl,
    rfl, rfl⟩
  obtain ⟨hc, hz, hn⟩ : f ≠ .c ∧ f ≠ .z ∧ f ≠ .n := by simpa using hf
  refine (getFlag_znFlags _ r f).trans ?_
  rw [if_neg hn, if_neg hz]
  exact getFlag_setFlag_other _ _ _ _ hc

/-- The shape of the four instructions: `out` is the bit shifted out, `r` the result. -/
theorem modifyInstr_shift (i : Instr) (s : State) (out : Byte → Bool) (r : Byte → State → Byte)
    (hwf : Memory.wf s.ram) (hind : i.operand.mode ≠ .ind) :
    let t := modifyInstr i r (fun v u => shiftFlags (out v) (r v u) u) s
    t.flag .c = out (operandValue i s) ∧
      ModifiesTo i (r (operandValue i s) (operated i s)) [.c, .z, .n] s t := by
  intro t
  refine ⟨?_, modifyInstr_modifiesTo i s r _ _ hwf hind (fun m u => computes_shiftFlags (out m) (r m u) u)
    (fun _ _ => rfl) fun _ _ => ⟨_, rfl⟩⟩
  rw [State.flag_eq, modifyInstr_cpu_p]
  exact (getFlag_znFlags _ _ .c).trans (getFlag_setFlag_same _ .c _)

/-- Settles O30: the common shape with each result and each bit shifted out in numbers. -/
theorem shiftsAndRotates : Obligations.ShiftsAndRotates := by
  intro f s hwf
  have hmode : f.operand.mode ≠ .ind := by cases f <;> nofun
  refine ⟨⟨_, rfl, ?asl⟩, ⟨_, rfl, ?lsr⟩, ⟨_, rfl, ?rol⟩, ⟨_, rfl, ?ror⟩⟩
  case asl =>
    obtain ⟨hc, hm⟩ := modifyInstr_shift (.asl f) s (·.getLsbD 7) (fun v _ => aslResult v) hwf hmode
    exact ⟨hc ▸ byte_bit_seven_iff _, aslResult_eq _ ▸ hm⟩
  case lsr =>
    obtain ⟨hc, hm⟩ := modifyInstr_shift (.lsr f) s (·.getLsbD 0) (fun v _ => lsrResult v) hwf hmode
    exact ⟨hc ▸ byte_bit_zero_iff _, lsrResult_eq _ ▸ hm⟩
  case rol =>
    obtain ⟨hc, hm⟩ := modifyInstr_shift (.rol f) s (·.getLsbD 7) (fun v u => rolResult v (u.flag .c)) hwf hmode
    rw [operated_flag, rolResult_eq, ← flagNat_eq_toNat] at hm
    exact ⟨hc ▸ byte_bit_seven_iff _, hm⟩
  case ror =>
    obtain ⟨hc, hm⟩ := modifyInstr_shift (.ror f) s (·.getLsbD 0) (fun v u => rorResult v (u.flag .c)) hwf hmode
    rw [operated_flag, rorResult_eq, ← flagNat_eq_toNat] at hm
    exact ⟨hc ▸ byte_bit_zero_iff _, hm⟩

/-! ## INC and DEC -/

theorem computes_setZN (v : Byte) (s : State) : Computes [] [.z, .n] s (setZN v s) :=
  computes_setP _ s _ (flagsKept_of_znFlags rfl)

/-- Settles O31. -/
theorem memoryIncrements : Obligations.MemoryIncrements := by
  intro f s hwf
  have hmode : f.operand.mode ≠ .ind := by cases f <;> nofun
  refine ⟨⟨_, rfl, ?inc⟩, ⟨_, rfl, ?dec⟩⟩
  case inc =>
    have hr : operandValue (.inc f) s + 1 = BitVec.ofNat 8 ((operandValue (.inc f) s).toNat + 1) :=
      BitVec.eq_of_toNat_eq (BitVec.toNat_add _ 1)
    rw [← hr]
    exact modifyInstr_modifiesTo (.inc f) s (fun v _ => v + 1) _ _ hwf hmode (fun m u => computes_setZN (m + 1) u)
      (fun _ _ => rfl) fun _ _ => ⟨_, rfl⟩
  case dec =>
    have hr : operandValue (.dec f) s - 1 = BitVec.ofNat 8 ((operandValue (.dec f) s).toNat + 255) :=
      BitVec.eq_of_toNat_eq (byte_sub_one_toNat _)
    rw [← hr]
    exact modifyInstr_modifiesTo (.dec f) s (fun v _ => v - 1) _ _ hwf hmode (fun m u => computes_setZN (m - 1) u)
      (fun _ _ => rfl) fun _ _ => ⟨_, rfl⟩

end Sys2Proof.Machine

/-! PROOFS. Instructions that read no operand and write registers and flags alone: flag instructions, transfers, NOP, the
branches and the jumps (specs 44_flags_transfer_loadstore.md sections 1, 2 and 5, 43_branch_stack_control.md sections 1
and 3). -/

namespace Sys2Proof.Machine

/-! ## The shape -/

section
variable (i : Instr) (f : State → State) (s : State)

/-- A plain instruction changes what its operation changes. -/
theorem computes_plainInstr (regs : List Reg) (flags : List Flag) (h : i.operand.mode ≠ .ind)
    (hf : ∀ u, Computes regs flags u (f u)) : Computes regs flags s (plainInstr i f s) := by
  rw [plainInstr_eq]
  exact (computes_resolved regs flags i s h).trans (hf _)

end

section
variable (s : State)

theorem computes_setSP (v : Byte) : Computes [.sp] [] s (s.setSP v) :=
  ⟨⟨fun _ => rfl, fun _ => rfl, fun _ => rfl, fun h => absurd (List.mem_singleton_self _) h, fun _ => rfl⟩,
    fun _ _ => rfl, OthersKept.refl s, rfl, rfl, rfl⟩

theorem computes_setPC (w : Word) : Computes [.pc] [] s (s.setPC w) :=
  ⟨⟨fun _ => rfl, fun _ => rfl, fun _ => rfl, fun _ => rfl, fun h => absurd (List.mem_singleton_self _) h⟩,
    fun _ _ => rfl, OthersKept.refl s, rfl, rfl, rfl⟩

theorem computes_setFlag (f : Flag) (v : Bool) : Computes [] [f] s (s.setFlag f v) :=
  computes_setP _ s _ fun g hg => getFlag_setFlag_other _ _ _ _ (by simpa using hg)

theorem computes_setRemaining (regs : List Reg) (n : Nat) : Computes regs [] s (s.setRemaining n) :=
  ⟨⟨fun _ => rfl, fun _ => rfl, fun _ => rfl, fun _ => rfl, fun _ => rfl⟩, fun _ _ => rfl, OthersKept.refl s, rfl, rfl,
    rfl⟩

/-- A branch writes PC and the count (R260). -/
theorem computes_branchIf (c : Bool) : Computes [.pc] [] s (branchIf c s) := by
  cases c
  · exact computes_setRemaining s [.pc] s.cpu.remaining
  · exact (computes_setRemaining s [.pc] _).trans (computes_setPC _ _)

end

/-! ## Flag instructions -/

theorem plainInstr_setFlag (i : Instr) (s : State) (f : Flag) (v : Bool) (h : i.operand.mode ≠ .ind)
    (he : exec i s = .next (plainInstr i (fun t => t.setFlag f v) s)) :
    ∃ t, exec i s = .next t ∧ t.flag f = v ∧ FlagsKept [f] s t ∧ RegsKept [] s t ∧ MemoryKept s t ∧ OthersKept s t := by
  have hc := computes_plainInstr i _ s [] [f] h fun u => computes_setFlag u f v
  refine ⟨_, he, ?_, hc.flagsKept, hc.regsKept, hc.memoryKept, hc.othersKept⟩
  rw [plainInstr_eq, State.flag_setFlag, if_pos rfl]

/-- Settles O41. -/
theorem flagInstructions : Obligations.FlagInstructions := by
  intro s b hb
  simp only [List.mem_cons, List.not_mem_nil, or_false] at hb
  obtain rfl | rfl | rfl | rfl | rfl | rfl | rfl := hb <;>
    exact plainInstr_setFlag _ s _ _ nofun (by rfl)

/-! ## Transfers -/

section
variable (i : Instr) (v : State → Byte) (s : State) (hi : i.operand = .imp) (hv : v (writeTemp (start i s)) = v s)
include hi hv

/-- A transfer to X: `v` reads the source. -/
theorem plainInstr_putX :
    let t := plainInstr i (fun u => putX (v u) u) s
    t.cpu.x = v s ∧ ZeroNegativeOf (v s) t ∧ RegsKept [.x] s t ∧ FlagsKept [.z, .n] s t ∧ MemoryKept s t ∧
      OthersKept s t := by
  simp only [plainInstr_imp i _ s hi, hv]
  exact ⟨rfl, zeroNegativeOf_of_znFlags rfl, putX_frame (v s) s i⟩

theorem plainInstr_putY :
    let t := plainInstr i (fun u => putY (v u) u) s
    t.cpu.y = v s ∧ ZeroNegativeOf (v s) t ∧ RegsKept [.y] s t ∧ FlagsKept [.z, .n] s t ∧ MemoryKept s t ∧
      OthersKept s t := by
  simp only [plainInstr_imp i _ s hi, hv]
  exact ⟨rfl, zeroNegativeOf_of_znFlags rfl, putY_frame (v s) s i⟩

theorem plainInstr_putA :
    let t := plainInstr i (fun u => putA (v u) u) s
    t.cpu.a = v s ∧ ZeroNegativeOf (v s) t ∧ RegsKept [.a] s t ∧ FlagsKept [.z, .n] s t ∧ MemoryKept s t ∧
      OthersKept s t := by
  have hc := computes_plainInstr i (fun u => putA (v u) u) s [.a] [.z, .n] (by rw [hi]; nofun)
    fun u => computes_putA u (v u)
  refine ⟨?_, ?_, hc.regsKept, hc.flagsKept, hc.memoryKept, hc.othersKept⟩ <;>
    rw [plainInstr_imp i _ s hi, hv]
  · rfl
  · exact zeroNegativeOf_of_znFlags rfl

end

/-- Settles O42: five transfers through a register's write with Z and N, and TXS. -/
theorem transfers : Obligations.Transfers := by
  intro s
  have hsp := computes_plainInstr .txs (fun t => t.setSP t.cpu.x) s [.sp] [] nofun fun u => computes_setSP u _
  exact ⟨⟨_, rfl, plainInstr_putX .tax (·.cpu.a) s rfl rfl⟩, ⟨_, rfl, plainInstr_putY .tay (·.cpu.a) s rfl rfl⟩,
    ⟨_, rfl, plainInstr_putA .txa (·.cpu.x) s rfl rfl⟩, ⟨_, rfl, plainInstr_putA .tya (·.cpu.y) s rfl rfl⟩,
    ⟨_, rfl, plainInstr_putX .tsx (·.cpu.sp) s rfl rfl⟩,
    ⟨_, rfl, congrArg (·.cpu.sp) (plainInstr_imp .txs _ s rfl), hsp.regsKept, hsp.flagsKept, hsp.memoryKept,
      hsp.othersKept⟩⟩

/-! ## NOP and the placeholder -/

/-- Settles O45. -/
theorem noOperations : Obligations.NoOperations := by
  refine ⟨fun s => congrArg Host.Outcome.next ?_, fun opcode s =>
    ⟨_, congrArg Host.Outcome.next (idleInstr_imp (.xxx opcode) s rfl),
      fun h => baseCycles_eq_tableCycles s.params (.xxx opcode) h⟩⟩
  rw [idleInstr_imp .nop s rfl, baseCycles_eq_tableCycles s.params .nop rfl]
  rfl

/-! ## Branches -/

/-- A sign-extended byte is the byte's signed value modulo 65536. -/
theorem add_sext16_toNat (w : Word) (off : Byte) :
    ((w + sext16 off).toNat : Int) = ((w.toNat : Int) + off.toInt) % 65536 := by
  have hoff : (sext16 off).toInt = off.toInt := BitVec.toInt_signExtend_of_le (by decide)
  have hw := (sext16 off).isLt
  rw [BitVec.toInt_eq_toNat_cond] at hoff
  rw [BitVec.toNat_add, ← hoff]
  split <;> omega

theorem baseCycles_of_branch (p : Params) (off : Byte) : ∀ b ∈ branchTable off, baseCycles p b.1 = 2 := by
  intro b hb
  simp only [branchTable, List.mem_cons, List.not_mem_nil, or_false] at hb
  obtain rfl | rfl | rfl | rfl | rfl | rfl | rfl | rfl := hb <;> exact baseCycles_eq_tableCycles p _ rfl

/-- Settles O34: a branch is one shape on its own flag test, taken or not. -/
theorem branches : Obligations.Branches := by
  intro off s b hb
  obtain ⟨hexec, hoperand, -⟩ := exec_branch off s b hb
  have hbase := baseCycles_of_branch s.params off b hb
  obtain ⟨i, f, v⟩ := b
  have hc : Computes [.pc] [] s (branched i off f v s) :=
    Computes.trans (t := writeTemp ((start i s).setAddrRel (sext16 off)))
      ⟨⟨fun _ => rfl, fun _ => rfl, fun _ => rfl, fun _ => rfl, fun _ => rfl⟩, fun _ _ => rfl, OthersKept.refl s, rfl,
        rfl, rfl⟩ (computes_branchIf _ _)
  refine ⟨_, hexec, fun htaken => ?taken, fun hnot => ?notTaken, hc.regsKept, hc.flagsKept, hc.memoryKept, hc.othersKept⟩
  case taken =>
    have hcond : (s.flag f == v) = true := beq_iff_eq.2 htaken
    have hpc : (branched i off f v s).cpu.pc = s.cpu.pc + sext16 off := by rw [branched, hcond]; rfl
    refine ⟨by rw [hpc]; exact add_sext16_toNat _ off, ?_⟩
    have hrem : (branched i off f v s).cpu.remaining =
        baseCycles s.params i + if hiByte (s.cpu.pc + sext16 off) = hiByte s.cpu.pc then 1 else 2 := by
      rw [branched, hcond]
      rfl
    simp only [hrem, hpc, hbase, hiByte_eq_iff]
  case notTaken =>
    have hcond : (s.flag f == v) = false := beq_eq_false_iff_ne.2 hnot
    rw [branched, hcond]
    exact ⟨rfl, hbase⟩

/-! ## Jumps -/

/-- Two reads leave every byte outside the port window and the whole graphics space (R73). -/
theorem bytesKept_of_two_reads (s t : State) (a b : Word) (hram : t.ram = s.ram) (hcart : t.cart = s.cart)
    (hgfx : t.gfx = (afterRead (afterRead s a) b).gfx) (hparams : t.params = s.params) : BytesKept s t := by
  obtain ⟨hn, hp, ht, -⟩ := afterRead_gfx_frame s a
  obtain ⟨hn', hp', ht', -⟩ := afterRead_gfx_frame (afterRead s a) b
  have hnametable : t.gfx.nametable = s.gfx.nametable := by rw [hgfx, hn', hn]
  have hpalette : t.gfx.palette = s.gfx.palette := by rw [hgfx, hp', hp]
  have hpattern : t.gfx.pattern = s.gfx.pattern := by rw [hgfx, ht', ht]
  exact ⟨fun c hc => peek_congr_of_not_port _ _ c hc hram hcart,
    fun c => ppuRead_congr _ _ c hcart hnametable hpalette hpattern hparams, hram, hcart, hnametable, hpalette, hpattern⟩

/-- Settles O36: PC is the address the mode resolves to. -/
theorem jumps : Obligations.Jumps := by
  intro w s
  have hc := computes_plainInstr (.jmp (.abs w)) (fun t => t.setPC t.cpu.addrAbs) s [.pc] [] nofun
    fun u => computes_setPC u _
  refine ⟨⟨_, rfl, ?_, hc.regsKept, hc.flagsKept, hc.memoryKept, hc.othersKept⟩, ?_⟩
  · rw [plainInstr_eq]
    rfl
  · rw [← indirectHighAddress_eq]
    intro next
    have ht : exec (.jmp (.ind w)) s = .next (plainInstr (.jmp (.ind w)) (fun t => t.setPC t.cpu.addrAbs) s) := rfl
    rw [plainInstr_eq, resolved_ind (.jmp (.ind w)) w s rfl] at ht
    refine ⟨_, ht, ?_, ?_, ?_, bytesKept_of_two_reads s _ w next ?_ ?_ ?_ ?_, ?_, ?_⟩
    · simp [w16_toNat, next, Nat.add_comm]
    · simp [RegsKept]
    · intro f _
      simp
    all_goals simp [next, OthersKept]

end Sys2Proof.Machine

/-! PROOFS. The stack: pushes and pulls, calls and returns, BRK and the interrupt entries (specs
43_branch_stack_control.md sections 2 and 3, 60_exceptions.md sections 3 and 4). -/

namespace Sys2Proof.Machine

/-! ## The RAM after a list of pushes (R270) -/

/-- The RAM after bytes are pushed from `sp` on, each one stack byte lower, modulo 256. -/
def ramAfterPushes : Memory → Byte → List Byte → Memory
  | m, _, [] => m
  | m, sp, v :: vs => ramAfterPushes (Memory.write m (256 + sp.toNat) v) (sp - 1) vs

theorem sub_one_sub_ofNat (sp : Byte) (k : Nat) : sp - 1 - BitVec.ofNat 8 k = sp - BitVec.ofNat 8 (k + 1) := by
  rw [BitVec.ofNat_add, BitVec.add_comm]
  exact sub_sub sp 1 _

/-- Up to 255 bytes below SP no stack byte is SP's own. -/
theorem sub_ofNat_toNat_ne (sp : Byte) (k : Nat) (h : k < 255) : sp.toNat ≠ (sp - 1 - BitVec.ofNat 8 k).toNat := by
  have hlt := sp.isLt
  rw [sub_one_sub_ofNat, BitVec.toNat_sub, BitVec.toNat_ofNat]
  omega

theorem read_ramAfterPushes_other (j : Nat) (vs : List Byte) :
    ∀ (m : Memory) (sp : Byte), (∀ k, k < vs.length → j ≠ 256 + (sp - BitVec.ofNat 8 k).toNat) →
      Memory.read (ramAfterPushes m sp vs) j = Memory.read m j := by
  induction vs with
  | nil => exact fun _ _ _ => rfl
  | cons v vs ih =>
    intro m sp hj
    have hhead : j ≠ 256 + sp.toNat := by simpa using hj 0 (Nat.succ_pos _)
    refine (ih _ (sp - 1) fun k hk => ?_).trans (Memory.read_write_other _ _ _ _ hhead)
    rw [sub_one_sub_ofNat]
    exact hj (k + 1) (Nat.succ_lt_succ hk)

theorem read_ramAfterPushes (v : Byte) (vs : List Byte) :
    ∀ (m : Memory) (sp : Byte) (k : Nat), Memory.wf m → vs.length ≤ 256 → vs[k]? = some v →
      Memory.read (ramAfterPushes m sp vs) (256 + (sp - BitVec.ofNat 8 k).toNat) = v := by
  induction vs with
  | nil => exact fun _ _ _ _ _ hv => nomatch hv
  | cons w vs ih =>
    intro m sp k hwf hlen hv
    have hlt : vs.length < 256 := hlen
    cases k with
    | zero =>
      obtain rfl : w = v := by simpa using hv
      have hsp : sp - BitVec.ofNat 8 0 = sp := BitVec.sub_zero sp
      rw [hsp]
      refine (read_ramAfterPushes_other _ vs _ (sp - 1) fun k hk => ?_).trans (Memory.read_write_same _ _ _ hwf)
      have hne := sub_ofNat_toNat_ne sp k (by omega)
      omega
    | succ k =>
      rw [← sub_one_sub_ofNat]
      exact ih _ (sp - 1) k (Memory.write_wf _ _ _ hwf) hlt.le (by simpa using hv)

/-! ## A state after pushes -/

/-- `t` is `s` with bytes pushed: what a push changes beside registers and flags. -/
def Pushes (vs : List Byte) (s t : State) : Prop :=
  t.ram = ramAfterPushes s.ram s.cpu.sp vs ∧ t.cart = s.cart ∧ t.gfx = s.gfx ∧ t.params = s.params ∧
    t.cpu.sp = s.cpu.sp - BitVec.ofNat 8 vs.length

theorem peek_stackAddress (s : State) (sp : Byte) : peek s (stackAddress sp) = Memory.read s.ram (256 + sp.toNat) := by
  have := sp.isLt
  rw [peek_ram _ _ (by rw [stackAddress_toNat]; omega), stackAddress_toNat, Nat.mod_eq_of_lt (by omega)]

/-- Above RAM a peek does not depend on it. -/
theorem peek_setRam_of_not_ram (s : State) (m : Memory) (a : Word) (h : 0x2000 ≤ a.toNat) :
    peek (s.setRam m) a = peek s a := by
  have hroute : route (s.setRam m) a = route s a := rfl
  obtain hram | hport | hhigh := address_cases a
  · omega
  · simp only [peek, route_port _ a hport]
    rfl
  · obtain ⟨k, hk⟩ | hk := route_high s a hhigh <;> simp only [peek, hroute, hk]
    rfl

section
variable {vs : List Byte} {s t : State} (h : Pushes vs s t) (hwf : Memory.wf s.ram) (hlen : vs.length ≤ 256)
include h hwf hlen

theorem Pushes.peek_pushed {k : Nat} {v : Byte} (hv : vs[k]? = some v) :
    peek t (stackAddress (s.cpu.sp - BitVec.ofNat 8 k)) = v := by
  obtain ⟨hram, -⟩ := h
  rw [peek_stackAddress, hram]
  exact read_ramAfterPushes v vs _ _ k hwf hlen hv

theorem Pushes.stackPushed : StackPushed vs s t := by
  obtain ⟨hram, hcart, hgfx, hparams, hsp⟩ := id h
  have hstack (sp : Byte) : (stackAddress sp).toNat % 2048 = 256 + sp.toNat ∧ (stackAddress sp).toNat ≤ 0x1FFF := by
    have := sp.isLt
    rw [stackAddress_toNat]
    omega
  refine ⟨fun k v hv b hb => ?_, fun b hb => ?_, fun a => ?_, hcart, hgfx, hsp⟩
  · obtain ⟨hlow, hlow', hsame⟩ := hb
    rw [peek_ram _ b hlow, hsame, ← peek_ram _ _ hlow']
    exact h.peek_pushed hwf hlen hv
  · by_cases hlow : b.toNat ≤ 0x1FFF
    · rw [peek_ram _ b hlow, peek_ram _ b hlow, hram]
      refine read_ramAfterPushes_other _ vs _ _ fun k hk heq => hb k hk ?_
      obtain ⟨hmod, hle⟩ := hstack (s.cpu.sp - BitVec.ofNat 8 k)
      exact ⟨hlow, hle, heq.trans hmod.symm⟩
    · rw [← peek_setRam_of_not_ram t s.ram b (by omega)]
      exact peek_congr s _ b rfl hcart hgfx hparams
  · exact ppuRead_congr _ _ a hcart (by rw [hgfx]) (by rw [hgfx]) (by rw [hgfx]) hparams

end

theorem pushes_push (v : Byte) (s : State) : Pushes [v] s (push v s) := by
  rw [push_eq]
  exact ⟨rfl, rfl, rfl, rfl, rfl⟩

theorem pushes_pushWord (w : Word) (s : State) : Pushes [hiByte w, loByte w] s (pushWord w s) := by
  rw [pushWord_eq]
  exact ⟨rfl, rfl, rfl, rfl, rfl⟩

/-! ## PHA, PHP, PLA, PLP -/

/-- Settles O35. -/
theorem stackInstructions : Obligations.StackInstructions := by
  intro s
  refine ⟨fun hwf => ⟨_, congrArg Host.Outcome.next (plainInstr_imp .pha _ s rfl), ?pha⟩,
    fun hwf => ⟨_, congrArg Host.Outcome.next (plainInstr_imp .php _ s rfl), ?php⟩,
    ⟨_, congrArg Host.Outcome.next (plainInstr_imp .pla _ s rfl), ?pla⟩,
    ⟨_, congrArg Host.Outcome.next (plainInstr_imp .plp _ s rfl), ?plp⟩⟩
  case pha =>
    refine ⟨Pushes.stackPushed (s := s) (pushes_push _ _) hwf (by simp), ?_⟩
    rw [push_eq]
    exact ⟨by simp [RegsKept], fun f _ => by simp, by simp [OthersKept]⟩
  case php =>
    refine ⟨Pushes.stackPushed (s := s) (pushes_push _ _) hwf (by simp), ?_⟩
    rw [push_eq]
    exact ⟨by simp [RegsKept], fun f _ => by simp, by simp [OthersKept]⟩
  case pla =>
    rw [peek_stackAddress, pull_eq]
    exact ⟨rfl, rfl, zeroNegativeOf_of_znFlags rfl,
      by simp [RegsKept, putA, setZN], flagsKept_of_znFlags rfl, memoryKept_of_eq rfl rfl rfl rfl,
      by simp [OthersKept, putA, setZN]⟩
  case plp =>
    rw [peek_stackAddress, pull_eq]
    exact ⟨rfl, rfl, by simp [RegsKept], memoryKept_of_eq rfl rfl rfl rfl, by simp [OthersKept]⟩

/-! ## JSR, RTS, RTI -/

/-- JSR in closed form (R291). -/
theorem exec_jsr (w : Word) (s : State) :
    exec (.jsr w) s =
      .next ((pushWord (s.cpu.pc - 1) (writeTemp ((start (.jsr w) s).setAddrAbs w))).setPC w) := by
  have haddr : (pushWord (s.cpu.pc - 1) (writeTemp ((start (.jsr w) s).setAddrAbs w))).setPC w =
      plainInstr (.jsr w) (fun t => (pushWord (t.cpu.pc - 1) t).setPC t.cpu.addrAbs) s := by
    rw [plainInstr_eq]
    rfl
  rw [haddr]
  rfl

theorem pushes_jsr (w : Word) (s : State) :
    Pushes [hiByte (s.cpu.pc - 1), loByte (s.cpu.pc - 1)] s
      ((pushWord (s.cpu.pc - 1) (writeTemp ((start (.jsr w) s).setAddrAbs w))).setPC w) :=
  pushes_pushWord (s.cpu.pc - 1) (writeTemp ((start (.jsr w) s).setAddrAbs w))

/-- Settles O37. -/
theorem call : Obligations.Call := by
  intro w s hwf
  refine ⟨_, exec_jsr w s, rfl, (pushes_jsr w s).stackPushed hwf (by simp), ?_⟩
  rw [pushWord_eq]
  exact ⟨by simp [RegsKept], fun f _ => by simp, by simp [OthersKept]⟩

/-- The status byte RTI leaves, as a mask (R293). -/
theorem returnedStatus_eq (p : Byte) : returnedStatus p = p &&& 0xCF := by
  refine status_ext _ _ fun f => ?_
  rw [getFlag_returnedStatus]
  cases f <;> simp [getFlag, Flag.bit]

/-- Settles O38. -/
theorem returns : Obligations.Returns := by
  intro s
  refine ⟨⟨_, congrArg Host.Outcome.next (plainInstr_imp .rts _ s rfl), ?rts⟩,
    ⟨_, congrArg Host.Outcome.next (plainInstr_imp .rti _ s rfl), ?rti⟩⟩
  case rts =>
    rw [peek_stackAddress, peek_stackAddress, pullWord_eq]
    exact ⟨rfl, rfl, by simp [RegsKept], fun f _ => by simp, memoryKept_of_eq rfl rfl rfl rfl, by simp [OthersKept]⟩
  case rti =>
    rw [peek_stackAddress, peek_stackAddress, peek_stackAddress, returnFromInterrupt_eq, ← returnedStatus_eq]
    exact ⟨rfl, rfl, rfl, by simp [RegsKept], memoryKept_of_eq rfl rfl rfl rfl, by simp [OthersKept]⟩

/-! ## Entering a handler -/

theorem ramAfterPushes_three (m : Memory) (sp : Byte) (w : Word) (v : Byte) :
    ramAfterPushes m sp [hiByte w, loByte w, v] =
      Memory.write (ramAfterPushWord m sp w) (256 + (sp - 2).toNat) v := by
  have h : sp - 1 - 1 = sp - 2 := sub_sub sp 1 1
  rw [← h]
  rfl

/-- What every entry through a vector leaves (R410, R294). -/
theorem enterHandler_entered (pushed : Byte) (vector : Word) (s : State) (h : 0x4000 ≤ vector.toNat)
    (h' : vector.toNat < 0xFFFF) :
    let t := enterHandler pushed vector s
    Pushes [hiByte s.cpu.pc, loByte s.cpu.pc, pushed] s t ∧ t.cpu.pc = w16 (peek s vector) (peek s (vector + 1)) ∧
      t.cpu.p = setFlag s.cpu.p .i true ∧ RegsKept [.sp, .pc] s t ∧ OthersKept s t := by
  intro t
  have ht : t = _ := enterHandler_eq pushed vector s h h'
  rw [ht, Pushes, ramAfterPushes_three]
  exact ⟨⟨rfl, rfl, rfl, rfl, rfl⟩, rfl, rfl, by simp [RegsKept], by simp [OthersKept]⟩

/-- The state BRK enters its handler from: PC is past the byte after the opcode (R294). -/
def brkPoint (s : State) : State := (writeTemp (start .brk s)).setPC (s.cpu.pc + 1)

theorem exec_brk (s : State) : exec .brk s = .next (enterHandler (softwareStatus s.cpu.p) 0xFFFE (brkPoint s)) :=
  congrArg Host.Outcome.next (plainInstr_imp .brk _ s rfl)

theorem pushes_brk (s : State) :
    Pushes [hiByte (s.cpu.pc + 1), loByte (s.cpu.pc + 1), softwareStatus s.cpu.p] s
      (enterHandler (softwareStatus s.cpu.p) 0xFFFE (brkPoint s)) := by
  obtain ⟨hpushes, -⟩ := enterHandler_entered (softwareStatus s.cpu.p) 0xFFFE (brkPoint s) (by decide) (by decide)
  exact hpushes

/-- Settles O39. -/
theorem softwareInterrupt : Obligations.SoftwareInterrupt := by
  intro s hwf
  obtain ⟨-, hpc, hp, hregs, hothers⟩ :=
    enterHandler_entered (softwareStatus s.cpu.p) 0xFFFE (brkPoint s) (by decide) (by decide)
  have hpoint : RegsKept [.sp, .pc] s (brkPoint s) := by simp [RegsKept, brkPoint]
  refine ⟨_, exec_brk s, hpc, (pushes_brk s).stackPushed hwf (by simp), ?_, fun f hf => ?_, hpoint.trans hregs, hothers⟩
  · rw [State.flag_eq, hp, getFlag_setFlag_same]
  · rw [State.flag_eq, hp, getFlag_setFlag_other _ _ _ _ (by simpa using hf)]
    rfl

/-- The status byte an interrupt pushes, as a mask (R410). -/
theorem interruptStatus_eq (p : Byte) : interruptStatus p = (p &&& 0xEF) ||| 0x20 := by
  refine status_ext _ _ fun f => ?_
  rw [getFlag_interruptStatus]
  cases f <;> simp [getFlag, Flag.bit]

section
variable (vector : Word) (s : State) (h : 0x4000 ≤ vector.toNat) (h' : vector.toNat < 0xFFFF)
include h h'

theorem pushes_interruptEntry :
    Pushes [hiByte s.cpu.pc, loByte s.cpu.pc, interruptStatus s.cpu.p] s (interruptEntry vector s) := by
  obtain ⟨hpushes, -⟩ := enterHandler_entered (interruptStatus s.cpu.p) vector (s.setP (interruptStatus s.cpu.p)) h h'
  exact hpushes

theorem interruptTaken_interruptEntry (hwf : Memory.wf s.ram) (cycles : Nat) :
    InterruptTaken vector cycles s ((interruptEntry vector s).setRemaining cycles) := by
  obtain ⟨-, hpc, hp, hregs, hothers⟩ :=
    enterHandler_entered (interruptStatus s.cpu.p) vector (s.setP (interruptStatus s.cpu.p)) h h'
  have hflag (f : Flag) : ((interruptEntry vector s).setRemaining cycles).flag f =
      if f = .i then true else if f = .u then true else if f = .b then false else s.flag f := by
    refine (congrArg (getFlag · f) hp).trans ?_
    rw [getFlag_setFlag]
    exact congrArg (ite _ _) (getFlag_interruptStatus s.cpu.p f)
  refine ⟨hpc, rfl, ?_, hflag .i, hflag .b, hflag .u, fun f hf => ?_, hregs, hothers⟩
  · rw [← interruptStatus_eq]
    exact Pushes.stackPushed (pushes_interruptEntry vector s h h') hwf (by simp)
  · obtain ⟨hi, hb, hu⟩ : f ≠ .i ∧ f ≠ .b ∧ f ≠ .u := by simpa using hf
    rw [hflag, if_neg hi, if_neg hu, if_neg hb]

end

/-- Settles O46. -/
theorem interruptEntryTaken : Obligations.InterruptEntry := by
  intro s hwf hzero
  refine ⟨fun hi => ⟨_, ?_, interruptTaken_interruptEntry 0xFFFE s (by decide) (by decide) hwf 7⟩,
    _, atBoundary_of_remaining_zero s _ hzero, interruptTaken_interruptEntry 0xFFFA s (by decide) (by decide) hwf 8⟩
  rw [irq, atBoundary_of_remaining_zero s _ hzero, hi]
  rfl

/-! ## A return undoes its entry -/

section
variable {s t u : State} {w : Word} (hwf : Memory.wf s.ram) (hsp : u.cpu.sp = t.cpu.sp) (hsame : SameStackPage t u)
include hwf hsp hsame

/-- RTS from a pushed return address (R292). -/
theorem rts_of_pushes (h : Pushes [hiByte w, loByte w] s t) :
    ∃ v, exec .rts u = .next v ∧ v.cpu.pc = w + 1 ∧ v.cpu.sp = s.cpu.sp := by
  obtain ⟨⟨v, hv, hvsp, hvpc, -⟩, -⟩ := returns u
  obtain ⟨-, -, -, -, (hdown : t.cpu.sp = s.cpu.sp - 2#8)⟩ := id h
  have hlo : u.cpu.sp + 1 = s.cpu.sp - BitVec.ofNat 8 1 := by rw [hsp, hdown]; bv_omega
  have hhi : u.cpu.sp + 2 = s.cpu.sp - BitVec.ofNat 8 0 := by rw [hsp, hdown]; bv_omega
  refine ⟨v, hv, ?_, ?_⟩
  · rw [hvpc, hlo, hhi, hsame, hsame, h.peek_pushed hwf (by simp) rfl, h.peek_pushed hwf (by simp) rfl, w16_loByte_hiByte]
  · exact (hvsp.trans hhi).trans (BitVec.sub_zero _)

/-- RTI from a pushed address and status (R293). -/
theorem rti_of_pushes {q : Byte} (h : Pushes [hiByte w, loByte w, q] s t) :
    ∃ v, exec .rti u = .next v ∧ v.cpu.pc = w ∧ v.cpu.sp = s.cpu.sp ∧ v.cpu.p = returnedStatus q := by
  obtain ⟨-, v, hv, hvsp, hvpc, hvp, -⟩ := returns u
  obtain ⟨-, -, -, -, (hdown : t.cpu.sp = s.cpu.sp - 3#8)⟩ := id h
  have hstatus : u.cpu.sp + 1 = s.cpu.sp - BitVec.ofNat 8 2 := by rw [hsp, hdown]; bv_omega
  have hlo : u.cpu.sp + 2 = s.cpu.sp - BitVec.ofNat 8 1 := by rw [hsp, hdown]; bv_omega
  have hhi : u.cpu.sp + 3 = s.cpu.sp - BitVec.ofNat 8 0 := by rw [hsp, hdown]; bv_omega
  refine ⟨v, hv, ?_, ?_, ?_⟩
  · rw [hvpc, hlo, hhi, hsame, hsame, h.peek_pushed hwf (by simp) rfl, h.peek_pushed hwf (by simp) rfl, w16_loByte_hiByte]
  · exact (hvsp.trans hhi).trans (BitVec.sub_zero _)
  · rw [hvp, hstatus, hsame, h.peek_pushed hwf (by simp) rfl, returnedStatus_eq]

end

/-- A status byte pushed with other B and U returns as the same byte. -/
theorem returnedStatus_interruptStatus (p : Byte) : returnedStatus (interruptStatus p) = p &&& 0xCF := by
  rw [← returnedStatus_eq]
  refine status_ext _ _ fun f => ?_
  rw [getFlag_returnedStatus, getFlag_returnedStatus, getFlag_interruptStatus]
  split <;> [rfl; split <;> rfl]

theorem returnedStatus_softwareStatus (p : Byte) : returnedStatus (softwareStatus p) = p &&& 0xCF := by
  rw [← returnedStatus_eq]
  refine status_ext _ _ fun f => ?_
  rw [getFlag_returnedStatus, getFlag_returnedStatus, getFlag_softwareStatus]
  split
  · rfl
  · split
    · rfl
    · rename_i hu hb
      exact if_neg fun h => h.elim hb hu

/-- Settles O40: each entry pushes the address its return pulls. -/
theorem returnUndoesEntry : Obligations.ReturnUndoesEntry := by
  intro s t u hwf hsp hsame
  have hentry (vector : Word) (cycles : Nat) (h : 0x4000 ≤ vector.toNat) (h' : vector.toNat < 0xFFFF)
      (ht : t = (interruptEntry vector s).setRemaining cycles) :
      ∃ v, exec .rti u = .next v ∧ v.cpu.pc = s.cpu.pc ∧ v.cpu.sp = s.cpu.sp ∧ v.cpu.p = s.cpu.p &&& 0xCF := by
    subst ht
    rw [← returnedStatus_interruptStatus]
    exact rti_of_pushes hwf hsp hsame (pushes_interruptEntry vector s h h')
  refine ⟨fun w ht => ?jsr, ?interrupt, fun ht => ?brk⟩
  case jsr =>
    obtain rfl := Host.Outcome.next.inj ((exec_jsr w s).symm.trans ht)
    rw [← sub_add_cancel s.cpu.pc 1]
    exact rts_of_pushes hwf hsp hsame (pushes_jsr w s)
  case interrupt =>
    rintro (⟨ht, hi⟩ | ht)
    · obtain ⟨hmasked, -⟩ | ht := of_irq_eq_next ht
      · exact absurd (hmasked.symm.trans hi) nofun
      · exact hentry 0xFFFE 7 (by decide) (by decide) ht
    · exact hentry 0xFFFA 8 (by decide) (by decide) (of_nmi_eq_next ht)
  case brk =>
    obtain rfl := Host.Outcome.next.inj ((exec_brk s).symm.trans ht)
    rw [← returnedStatus_softwareStatus]
    exact rti_of_pushes hwf hsp hsame (pushes_brk s)

end Sys2Proof.Machine
